-- ==== Sys2Proof/Word.lean ====
section
/-! DEFINITION. The word types of the block: the widths of 00_scope.md R7 and 10_state.md R22. Every quantity
is unsigned (R7). -/

namespace Sys2Proof

/-- A byte, 0 to 255 (00_scope.md R7). -/
abbrev Byte := BitVec 8

/-- A 16-bit field or register. -/
abbrev U16 := BitVec 16

/-- A 32-bit field or register. -/
abbrev U32 := BitVec 32

/-- A 48-bit hardware address register (20_memory.md R64). -/
abbrev Addr48 := BitVec 48

end Sys2Proof
end

