-- ==== Sys2Proof/Config.lean ====
section
/-! DEFINITION. What an implementation of the block fixes (00_scope.md R6), the constants the spec names, and the
free values the spec leaves open (93_implementation_defined.md U1 to U5). -/

namespace Sys2Proof

/-- The three byte buffers (10_state.md R34, 20_memory.md R60). -/
inductive Buf where
  | rx   -- RXBUF
  | tx   -- TXBUF
  | val  -- VALBUF
deriving DecidableEq, Repr

/-- The implementation parameters of 00_scope.md R6 that are not plain constants. -/
structure Params where
  /-- `RX_CAP`, the capacity of RXBUF in bytes. -/
  rxCap : Nat
  /-- `TX_CAP`, the capacity of TXBUF in bytes. -/
  txCap : Nat
  /-- `VAL_CAP`, the capacity of VALBUF in bytes. -/
  valCap : Nat
  /-- `TX_MIN_FRAME_LEN`: shorter transmit frames are zero-padded to it. -/
  txMinFrameLen : Nat
  /-- `ACK_STATUS_OFFSET`: the payload offset of a set acknowledgement's status byte. -/
  ackStatusOffset : Nat
deriving DecidableEq, Repr

/-- The constraints of 00_scope.md R6 and 92_eei_decisions.md (open parameters) on the parameters. -/
abbrev Params.ok (P : Params) : Prop :=
  26 ≤ P.rxCap ∧ P.rxCap ≤ 2 ^ 32 - 1 ∧ 30 ≤ P.txCap ∧ P.txCap ≤ 2 ^ 32 - 1 ∧ P.valCap ≤ 65535 ∧
    P.ackStatusOffset ≤ 65535

namespace Config

/-- The free choice behind `RX_CAP`: no body, so nothing can be proved of its value (log 3). -/
opaque rxCapChoice : Nat

/-- The free choice behind `TX_CAP` (log 3). -/
opaque txCapChoice : Nat

/-- The free choice behind `VAL_CAP` (log 3). -/
opaque valCapChoice : Nat

/-- `RX_CAP`: any value with `26 ≤ RX_CAP ≤ 2^32 - 1` (00_scope.md R6, 92_eei_decisions.md D5). -/
def rxCap : Nat := rxCapChoice % (2 ^ 32 - 26) + 26

/-- `TX_CAP`: any value with `30 ≤ TX_CAP ≤ 2^32 - 1` (00_scope.md R6, 92_eei_decisions.md D5). -/
def txCap : Nat := txCapChoice % (2 ^ 32 - 30) + 30

/-- `VAL_CAP`: any value with `VAL_CAP ≤ 65535` (00_scope.md R6, 92_eei_decisions.md D5). -/
def valCap : Nat := valCapChoice % 65536

/-- The parameters of the machine: the capacities are open (log 3), `TX_MIN_FRAME_LEN` and `ACK_STATUS_OFFSET` have
the values of 00_scope.md R6 (log 4). -/
def params : Params :=
  { rxCap := rxCap, txCap := txCap, valCap := valCap, txMinFrameLen := 0, ackStatusOffset := 6 }

/-- The byte a buffer holds at an address that nothing has written since the reset of the given epoch: a free value,
"an unconstrained draw, fixed at reset" (93_implementation_defined.md U1, U2; log 5). -/
opaque powerOnByte : Nat → Buf → Nat → Byte

/-- `ETHERTYPE_DCP` (00_scope.md R6). -/
def ethertypeDcp : U16 := 0x8892#16

/-- `ETH_HDR_LEN` (00_scope.md R6). -/
def ethHdrLen : Nat := 14

/-- `PKT_HDR_LEN` (00_scope.md R6). -/
def pktHdrLen : Nat := 12

/-- `RX_PAYLOAD_BASE = ETH_HDR_LEN + PKT_HDR_LEN` (00_scope.md R6). -/
def rxPayloadBase : Nat := 26

/-- `BLK_HDR_LEN` (00_scope.md R6). -/
def blkHdrLen : Nat := 4

/-- `WALK_MIN`: the iterator decodes another block only while more bytes than this remain (00_scope.md R6). -/
def walkMin : Nat := 6

/-- `CONTROL_OPTION`, the option that marks a set acknowledgement (00_scope.md R6, 30_encoding.md R93). -/
def controlOption : Byte := 5#8

/-- `SERVICE_TYPE_RESPONSE`, the one service type `validate()` accepts (00_scope.md R6). -/
def serviceTypeResponse : Byte := 1#8

/-- `SERVICE_TYPE` of a request (30_encoding.md R90). -/
def serviceTypeRequest : Byte := 0#8

/-- `STATUS_KNOWN_MAX`, the largest status byte with a named message (00_scope.md R6, 30_encoding.md R94). -/
def statusKnownMax : Byte := 6#8

/-- Frame id "discovery" (30_encoding.md R89). -/
def frameIdDiscovery : U16 := 0xFEFE#16

/-- Frame id "get/set" (30_encoding.md R89). -/
def frameIdGetSet : U16 := 0xFEFD#16

/-- Service id GET (30_encoding.md R90). -/
def serviceIdGet : Byte := 3#8

/-- Service id SET (30_encoding.md R90). -/
def serviceIdSet : Byte := 4#8

/-- Service id IDENTIFY (30_encoding.md R90). -/
def serviceIdIdentify : Byte := 5#8

/-- The reserved multicast address 01:0e:cf:00:00:00 (30_encoding.md R95). -/
def multicastAddress : Addr48 := 0x010ECF000000#48

/-- The request-side option/suboption pairs the document names (30_encoding.md R93). -/
inductive RequestPair where
  | all | ipAddress | deviceFamily | nameOfStation | deviceId | blinkLed | resetFactory | resetToFactory
deriving DecidableEq, Repr

/-- The option and suboption bytes of a named pair (30_encoding.md R93). -/
def RequestPair.bytes : RequestPair → Byte × Byte
  | .all => (0xFF#8, 0xFF#8)
  | .ipAddress => (1#8, 2#8)
  | .deviceFamily => (2#8, 1#8)
  | .nameOfStation => (2#8, 2#8)
  | .deviceId => (2#8, 3#8)
  | .blinkLed => (5#8, 3#8)
  | .resetFactory => (5#8, 5#8)
  | .resetToFactory => (5#8, 6#8)

end Config

end Sys2Proof
end

