-- ==== Sys2Proof/Syntax.lean ====
section
/-! DEFINITION. The sixteen commands (30_encoding.md R82), the named registers of the register map (10_state.md R22)
and the operations a host sends the block (60_exceptions.md R205). -/

namespace Sys2Proof

/-- The commands of 30_encoding.md R82, one constructor per row of the opcode table. No command has an operand field
(R84). -/
inductive Instr where
  | nop       -- 0x00, 40_int_codec.md R110
  | u16enc    -- 0x01, R115
  | u16dec    -- 0x02, R116
  | u32enc    -- 0x03, R117
  | u32dec    -- 0x04, R118
  | rxrd8     -- 0x05, R119
  | rxrd16    -- 0x06, R120
  | rxrd32    -- 0x07, R121
  | txbuild   -- 0x10, 42_frame_codec.md R150
  | ethdec    -- 0x20, R151
  | pktdec    -- 0x21, R152
  | validate  -- 0x22, R153
  | blkdec    -- 0x30, 41_block_codec.md R133
  | itstart   -- 0x31, 43_iterator.md R171
  | itnext    -- 0x32, R172
  | classify  -- 0x33, R173
deriving DecidableEq, Repr

/-- The registers of the register map, in the order of 10_state.md R22. Their numbers, widths and access rights are in
Machine/RegMap.lean. -/
inductive Reg where
  | cmd | err | arg | res | byte0 | byte1 | byte2 | byte3 | txDst | txSrc | txFrameId | txServiceId
  | txServiceType | txXid | txDelay | txOpt | txSub | valLen | txLen | rxLen | rxStage | rxDst | rxSrc
  | rxEtype | rxFrameId | rxServiceId | rxServiceType | rxXid | rxDelay | rxPlen | rxPavail | rxValid
  | itState | itCur | itRem | itNblk | blkOpt | blkSub | blkLen | blkStatus | blkPoff | blkVoff | blkVlen
  | blkPad | blkCons | kind | ackStatus | ackKnown
deriving DecidableEq, Repr

/-- One operation of the host (60_exceptions.md R205, one constructor per row of its table), and `readRx`, which is outside the
table and gets no step (log 9). -/
inductive HostOp where
  /-- `WR r, v`: write register number `r`; a write to CMD (number 0) issues a command (10_state.md R23). -/
  | writeReg (r : Byte) (v : Nat)
  /-- Read register number `r`. -/
  | readReg (r : Byte)
  /-- VALBUF write: store the bytes at `VALBUF[a ..)`. -/
  | writeVal (a : Nat) (bytes : List Byte)
  /-- TXBUF read of `n` bytes at `a`, within `TXBUF[0 .. TXLEN)`. -/
  | readTx (a n : Nat)
  /-- A direct read of `n` bytes of RXBUF at `a`: no row of R205's table. The host reads RXBUF through RXRD8, RXRD16 and
  RXRD32 (log 9). -/
  | readRx (a n : Nat)
  /-- Frame load, `LOAD S` (R206). -/
  | load (frame : List Byte)
  /-- Reset (70_reset_and_hazards.md R220). -/
  | reset
deriving DecidableEq, Repr

end Sys2Proof
end

