-- ==== Sys2Proof/Decode.lean ====
section
/-! DEFINITION. Decoding and encoding of a command: one byte, matched on all eight bits (30_encoding.md R80, R82). -/

namespace Sys2Proof

/-- Why a byte is no command. -/
inductive DecodeError where
  /-- The opcode is not in 30_encoding.md R82 (R83). Raised by `decode`; safe: the step answers it with the error code
  E_ILLEGAL_CMD, as 60_exceptions.md R194 says. -/
  | illegalOpcode (op : Byte)
deriving DecidableEq, Repr

/-- The command whose opcode is the byte written to CMD, by an exact match of all eight bits (30_encoding.md R82);
every other opcode is illegal (R83). -/
def decode (op : Byte) : Except DecodeError Instr :=
  if op = 0x00#8 then .ok .nop
  else if op = 0x01#8 then .ok .u16enc
  else if op = 0x02#8 then .ok .u16dec
  else if op = 0x03#8 then .ok .u32enc
  else if op = 0x04#8 then .ok .u32dec
  else if op = 0x05#8 then .ok .rxrd8
  else if op = 0x06#8 then .ok .rxrd16
  else if op = 0x07#8 then .ok .rxrd32
  else if op = 0x10#8 then .ok .txbuild
  else if op = 0x20#8 then .ok .ethdec
  else if op = 0x21#8 then .ok .pktdec
  else if op = 0x22#8 then .ok .validate
  else if op = 0x30#8 then .ok .blkdec
  else if op = 0x31#8 then .ok .itstart
  else if op = 0x32#8 then .ok .itnext
  else if op = 0x33#8 then .ok .classify
  else .error (.illegalOpcode op)

/-- The opcode of a command (30_encoding.md R82). -/
def encode : Instr → Byte
  | .nop => 0x00#8
  | .u16enc => 0x01#8
  | .u16dec => 0x02#8
  | .u32enc => 0x03#8
  | .u32dec => 0x04#8
  | .rxrd8 => 0x05#8
  | .rxrd16 => 0x06#8
  | .rxrd32 => 0x07#8
  | .txbuild => 0x10#8
  | .ethdec => 0x20#8
  | .pktdec => 0x21#8
  | .validate => 0x22#8
  | .blkdec => 0x30#8
  | .itstart => 0x31#8
  | .itnext => 0x32#8
  | .classify => 0x33#8

/-- The sub-blocks the high nibble of an opcode groups commands by (30_encoding.md R81). -/
inductive CommandGroup where
  | general   -- 0x0, general and integer codec
  | transmit  -- 0x1, transmit frame codec
  | receive   -- 0x2, receive frame codec
  | blocks    -- 0x3, block parser and payload iterator
deriving DecidableEq, Repr

/-- The sub-block of a command (30_encoding.md R81). -/
def commandGroup : Instr → CommandGroup
  | .nop => .general
  | .u16enc => .general
  | .u16dec => .general
  | .u32enc => .general
  | .u32dec => .general
  | .rxrd8 => .general
  | .rxrd16 => .general
  | .rxrd32 => .general
  | .txbuild => .transmit
  | .ethdec => .receive
  | .pktdec => .receive
  | .validate => .receive
  | .blkdec => .blocks
  | .itstart => .blocks
  | .itnext => .blocks
  | .classify => .blocks

/-- The high nibble that stands for a sub-block (30_encoding.md R81). -/
def groupNibble : CommandGroup → BitVec 4
  | .general => 0x0#4
  | .transmit => 0x1#4
  | .receive => 0x2#4
  | .blocks => 0x3#4

/-- The command byte of an instruction word given as the opcode table numbers it: the table's rows have one byte. -/
def commandByte (nbits w : Nat) : Byte := BitVec.ofNat 8 (w % 2 ^ nbits)

/-- The instruction the decoder reads from an instruction whose bits are `w`, numbered as the opcode table numbers
them. -/
def decodeTableWord (nbits w : Nat) : Option Instr :=
  match decode (commandByte nbits w) with
  | .ok i => some i
  | .error _ => none

end Sys2Proof
end

