-- ==== Sys2Proof/Machine/State.lean ====
section
/-! DEFINITION. The block's state (10_state.md R20 to R35), the reasons a step can stop, and the state after reset. -/

namespace Sys2Proof.Machine

open Sys2Proof

/-- The values ERR can hold (60_exceptions.md R190: "No other value is ever written to ERR"). The 8-bit codes are
`ErrCode.code` (log 8). -/
inductive ErrCode where
  | ok              -- 0x00
  | illegalCmd      -- 0x01
  | sequence        -- 0x02
  | frameShort      -- 0x10
  | etherType       -- 0x11
  | pktShort        -- 0x12
  | notResponse     -- 0x13
  | blkHdrTrunc     -- 0x20
  | blkLenSmall     -- 0x21
  | blkValTrunc     -- 0x22
  | blkOverrun      -- 0x23
  | ackOob          -- 0x24
  | rxOob           -- 0x25
  | payloadTooLong  -- 0x30
  | txOverflow      -- 0x31
  | valRange        -- 0x32
deriving DecidableEq, Repr

/-- How far the frame in RXBUF has been decoded (10_state.md R28). -/
inductive RxStage where
  | none   -- 0, NONE
  | ethOk  -- 1, ETH_OK
  | pktOk  -- 2, PKT_OK
deriving DecidableEq, Repr

/-- The payload iterator's state (10_state.md R31). -/
inductive ItState where
  | idle   -- 0
  | ready  -- 1
  | block  -- 2
  | done   -- 3
  | error  -- 4
deriving DecidableEq, Repr

/-- The classification of the packet (10_state.md R33). -/
inductive Kind where
  | none        -- 0
  | deviceData  -- 1
  | ack         -- 2
deriving DecidableEq, Repr

/-- The nine BLK_ registers (10_state.md R32): the block record of 41_block_codec.md R132. -/
@[ext]
structure BlockRegs where
  /-- BLK_OPT, 8 bits. -/
  opt : Byte
  /-- BLK_SUB, 8 bits. -/
  sub : Byte
  /-- BLK_LEN, 16 bits. -/
  len : U16
  /-- BLK_STATUS, 16 bits. -/
  status : U16
  /-- BLK_POFF, 32 bits. -/
  poff : U32
  /-- BLK_VOFF, 32 bits. -/
  voff : U32
  /-- BLK_VLEN, 16 bits. -/
  vlen : U16
  /-- BLK_PAD, 1 bit. -/
  pad : BitVec 1
  /-- BLK_CONS, 17 bits. -/
  cons : BitVec 17
deriving DecidableEq, Repr

/-- The BLK_ registers after reset (10_state.md R35). -/
def BlockRegs.zero : BlockRegs :=
  { opt := 0, sub := 0, len := 0, status := 0, poff := 0, voff := 0, vlen := 0, pad := 0, cons := 0 }

/-- A byte buffer: the bytes written since reset, by address (canonical form: `Memory.wf`; log 6). -/
abbrev Memory := List Host.Cell

/-- What the host gets back from its last operation (60_exceptions.md R205, column "host gets back"; log 2). -/
inductive Reply where
  | nothing
  /-- A register read's value. -/
  | value (v : Nat)
  /-- A buffer read's bytes. -/
  | bytes (b : List Byte)
deriving DecidableEq, Repr

/-- The state of the block: the registers of 10_state.md R22 and the buffers of R34, and three fields of the model's
own (the last three). -/
@[ext]
structure State where
  /-- CMD, the last opcode written (R23). -/
  cmd : Byte
  /-- ERR, the outcome of the last command (R24). -/
  err : ErrCode
  /-- ARG, the scalar operand (R25). -/
  arg : U32
  /-- RES, the scalar result (R25). -/
  res : U32
  /-- BYTE0, the byte of the window that comes first on the wire (R26). -/
  byte0 : Byte
  /-- BYTE1 (R26). -/
  byte1 : Byte
  /-- BYTE2 (R26). -/
  byte2 : Byte
  /-- BYTE3 (R26). -/
  byte3 : Byte
  /-- TX_DST (R27). -/
  txDst : Addr48
  /-- TX_SRC (R27). -/
  txSrc : Addr48
  /-- TX_FRAME_ID (R27). -/
  txFrameId : U16
  /-- TX_SERVICE_ID (R27). -/
  txServiceId : Byte
  /-- TX_SERVICE_TYPE (R27). -/
  txServiceType : Byte
  /-- TX_XID (R27). -/
  txXid : U32
  /-- TX_DELAY (R27). -/
  txDelay : U16
  /-- TX_OPT (R27). -/
  txOpt : Byte
  /-- TX_SUB (R27). -/
  txSub : Byte
  /-- VALLEN, the number of value bytes (R27). -/
  valLen : U16
  /-- TXLEN, the length of the last frame built (R27). -/
  txLen : U32
  /-- RXLEN, the number of valid bytes in RXBUF (R30). -/
  rxLen : U32
  /-- RX_STAGE (R28). -/
  rxStage : RxStage
  /-- RX_DST (R29). -/
  rxDst : Addr48
  /-- RX_SRC (R29). -/
  rxSrc : Addr48
  /-- RX_ETYPE (R29). -/
  rxEtype : U16
  /-- RX_FRAME_ID (R29). -/
  rxFrameId : U16
  /-- RX_SERVICE_ID (R29). -/
  rxServiceId : Byte
  /-- RX_SERVICE_TYPE (R29). -/
  rxServiceType : Byte
  /-- RX_XID (R29). -/
  rxXid : U32
  /-- RX_DELAY (R29). -/
  rxDelay : U16
  /-- RX_PLEN, the declared payload length (R29). -/
  rxPlen : U16
  /-- RX_PAVAIL, the payload bytes really present (R29). -/
  rxPavail : U32
  /-- RX_VALID (R29). -/
  rxValid : BitVec 1
  /-- IT_STATE (R31). -/
  itState : ItState
  /-- IT_CUR, the payload offset of the next block (R31). -/
  itCur : U16
  /-- IT_REM, the document's `remaining` (R31). -/
  itRem : U16
  /-- IT_NBLK, the blocks yielded since ITSTART (R31). -/
  itNblk : U16
  /-- The BLK_ registers (R32). -/
  blk : BlockRegs
  /-- KIND (R33). -/
  kind : Kind
  /-- ACK_STATUS (R33). -/
  ackStatus : Byte
  /-- ACK_KNOWN (R33). -/
  ackKnown : BitVec 1
  /-- RXBUF (R34). -/
  rxBuf : Memory
  /-- TXBUF (R34). -/
  txBuf : Memory
  /-- VALBUF (R34). -/
  valBuf : Memory
  /-- The MODEL's own: the host's operations still to come (log 1). -/
  hostOps : List HostOp
  /-- The MODEL's own: what the host gets back from its last operation (log 2). -/
  reply : Reply
  /-- The MODEL's own: the number of host resets seen, which selects the draw of the unwritten buffer bytes (log 5). -/
  epoch : Nat
deriving DecidableEq, Repr

/-- Why the machine stops with a fault. The block itself takes no trap (60_exceptions.md R196). -/
inductive Fault where
  /-- An access to `count` bytes of a buffer at `addr` that reaches beyond the buffer's valid bytes. Raised by BLKDEC,
  ITNEXT and CLASSIFY in a state whose RX_PAVAIL claims payload bytes beyond RXLEN. Safe: 20_memory.md R66 and R71 say
  that no rule reads there, and no run reaches such a state (log 7). -/
  | outsideValid (buf : Buf) (addr count : Nat)
deriving DecidableEq, Repr

/-- Why a step has no meaning. -/
inductive Refusal where
  /-- An instruction that has no meaning yet. Raised by exec's arms only; safe. -/
  | notModelled (mnemonic : String)
  /-- A register write whose value does not have the register's width: outside the table of 60_exceptions.md R205.
  Raised by the host's write of any named register; safe (log 10). -/
  | valueTooWide (reg : Reg)
  /-- A frame load longer than RX_CAP (60_exceptions.md R205, 93_implementation_defined.md U12). Raised by the frame
  load; safe. -/
  | frameTooLong
  /-- A VALBUF write past VAL_CAP (60_exceptions.md R205, U12). Raised by the VALBUF write; safe. -/
  | valWriteOutOfRange
  /-- A buffer read outside the buffer's valid length (60_exceptions.md R205, U12). Raised by the host's TXBUF read;
  safe. -/
  | readOutOfRange (buf : Buf)
  /-- A direct host read of a buffer for which the table of 60_exceptions.md R205 has no row. Raised by the host's direct
  read of RXBUF; safe (log 9). -/
  | notInTable (buf : Buf)
deriving DecidableEq, Repr

/-- The outcome of one step of this machine. -/
abbrev Result := Host.Outcome State Fault Refusal

/-- The machine right after reset (10_state.md R22, R35; 70_reset_and_hazards.md R220): every register 0, the buffers
with no byte written (log 6), and the model's own fields at the values of log 1, log 2 and log 5. -/
def State.reset : State :=
  { cmd := 0, err := .ok, arg := 0, res := 0, byte0 := 0, byte1 := 0, byte2 := 0, byte3 := 0,
    txDst := 0, txSrc := 0, txFrameId := 0, txServiceId := 0, txServiceType := 0, txXid := 0, txDelay := 0,
    txOpt := 0, txSub := 0, valLen := 0, txLen := 0,
    rxLen := 0, rxStage := .none, rxDst := 0, rxSrc := 0, rxEtype := 0, rxFrameId := 0, rxServiceId := 0,
    rxServiceType := 0, rxXid := 0, rxDelay := 0, rxPlen := 0, rxPavail := 0, rxValid := 0,
    itState := .idle, itCur := 0, itRem := 0, itNblk := 0,
    blk := BlockRegs.zero, kind := .none, ackStatus := 0, ackKnown := 0,
    rxBuf := [], txBuf := [], valBuf := [], hostOps := [], reply := .nothing, epoch := 0 }

end Sys2Proof.Machine
end

