-- ==== Sys2Proof/Machine/Flags.lean ====
section
/-! DEFINITION. The one-bit results commands compute: RX_VALID, BLK_PAD, ACK_KNOWN; and ERR's codes and classes
(60_exceptions.md R190, R192). There are no other flags. -/

namespace Sys2Proof.Machine

open Sys2Proof

/-- RX_VALID: 1 iff the service type is RESPONSE (42_frame_codec.md R152, R153). -/
def validBit (serviceType : Byte) : BitVec 1 :=
  if serviceType = Config.serviceTypeResponse then 1#1 else 0#1

/-- BLK_PAD: `len mod 2` (10_state.md R32, 41_block_codec.md R132). -/
def padBit (len : Nat) : BitVec 1 := BitVec.ofNat 1 (len % 2)

/-- ACK_KNOWN of an acknowledgement: 1 iff the status byte is one of the codes with a message (10_state.md R33,
30_encoding.md R94). -/
def ackKnownBit (status : Byte) : BitVec 1 := if status ≤ Config.statusKnownMax then 1#1 else 0#1

/-- The 8-bit code of an outcome (60_exceptions.md R190, column "code"). -/
def ErrCode.code : ErrCode → Byte
  | .ok => 0x00#8
  | .illegalCmd => 0x01#8
  | .sequence => 0x02#8
  | .frameShort => 0x10#8
  | .etherType => 0x11#8
  | .pktShort => 0x12#8
  | .notResponse => 0x13#8
  | .blkHdrTrunc => 0x20#8
  | .blkLenSmall => 0x21#8
  | .blkValTrunc => 0x22#8
  | .blkOverrun => 0x23#8
  | .ackOob => 0x24#8
  | .rxOob => 0x25#8
  | .payloadTooLong => 0x30#8
  | .txOverflow => 0x31#8
  | .valRange => 0x32#8

/-- The classes of 60_exceptions.md R192. -/
inductive ErrClass where
  | none
  | command
  | framing
  | discard
  | validation
  | encode
deriving DecidableEq, Repr

/-- The class of an outcome (60_exceptions.md R190, column "class"; R192). -/
def ErrCode.errClass : ErrCode → ErrClass
  | .ok => .none
  | .illegalCmd => .command
  | .sequence => .command
  | .frameShort => .framing
  | .etherType => .discard
  | .pktShort => .framing
  | .notResponse => .validation
  | .blkHdrTrunc => .framing
  | .blkLenSmall => .framing
  | .blkValTrunc => .framing
  | .blkOverrun => .framing
  | .ackOob => .framing
  | .rxOob => .framing
  | .payloadTooLong => .encode
  | .txOverflow => .encode
  | .valRange => .encode

/-- RX_STAGE's 2-bit code (10_state.md R28). -/
def RxStage.code : RxStage → BitVec 2
  | .none => 0
  | .ethOk => 1
  | .pktOk => 2

/-- IT_STATE's 3-bit code (10_state.md R31). -/
def ItState.code : ItState → BitVec 3
  | .idle => 0
  | .ready => 1
  | .block => 2
  | .done => 3
  | .error => 4

/-- KIND's 2-bit code (10_state.md R33). -/
def Kind.code : Kind → BitVec 2
  | .none => 0
  | .deviceData => 1
  | .ack => 2

end Sys2Proof.Machine
end

