-- ==== Sys2Proof/Machine/Ops.lean ====
section
/-! DEFINITION. The named operations over memory and registers: buffers, byte order, and the two ways a command ends
(success, and `raise E`, which is this block's only exception: 60_exceptions.md R191, R196). -/

namespace Sys2Proof.Machine

open Sys2Proof

/-! ### Byte buffers -/

/-- The canonical form of a buffer: addresses strictly rising (log 6). -/
abbrev Memory.wf (m : Memory) : Prop := (m.map Prod.fst).Pairwise (· < ·)

/-- The byte written at an address since reset, if any (log 6). -/
def Memory.read? : Memory → Nat → Option Byte
  | [], _ => none
  | (k, b) :: rest, a => if a = k then some b else Memory.read? rest a

/-- One byte stored at an address, every other address as before (20_memory.md R67, R72). -/
def Memory.writeByte : Memory → Nat → Byte → Memory
  | [], a, v => [(a, v)]
  | (k, b) :: rest, a, v =>
    if a < k then (a, v) :: (k, b) :: rest
    else if a = k then (a, v) :: rest
    else (k, b) :: Memory.writeByte rest a v

/-- `MemWrite(BUF, a, n, S)`: the bytes `S` stored at `BUF[a .. a + len S)` (00_scope.md R9, 20_memory.md R67). -/
def Memory.write : Memory → Nat → List Byte → Memory
  | m, _, [] => m
  | m, a, v :: vs => Memory.write (Memory.writeByte m a v) (a + 1) vs

/-- A buffer of the state. -/
def State.buf (s : State) : Buf → Memory
  | .rx => s.rxBuf
  | .tx => s.txBuf
  | .val => s.valBuf

/-- The byte a buffer holds at an address: the latest written, or the draw of the last reset where nothing has been
written since (20_memory.md R72, 93_implementation_defined.md U1; log 5). -/
def State.byteAt (s : State) (b : Buf) (a : Nat) : Byte :=
  match (s.buf b).read? a with
  | some v => v
  | none => Config.powerOnByte s.epoch b a

/-- `RXBUF[a]`. -/
def State.rxByte (s : State) (a : Nat) : Byte := s.byteAt .rx a

/-- `TXBUF[a]`. -/
def State.txByte (s : State) (a : Nat) : Byte := s.byteAt .tx a

/-- `VALBUF[a]`. -/
def State.valByte (s : State) (a : Nat) : Byte := s.byteAt .val a

/-- The payload view `P[i] = RXBUF[26 + i]` (20_memory.md R60). -/
def State.payloadByte (s : State) (i : Nat) : Byte := s.rxByte (Config.rxPayloadBase + i)

/-- `MemRead(BUF, a, n)`: the bytes `BUF[a .. a + n)` (00_scope.md R9, 20_memory.md R66). -/
def State.memRead (s : State) (b : Buf) (a n : Nat) : List Byte :=
  (List.range n).map fun i => s.byteAt b (a + i)

/-- An access to `n` bytes of RXBUF at `a` goes on only where they are among its RXLEN valid bytes: "no rule reads outside
the valid bytes of RXBUF" (20_memory.md R66; log 7). -/
def State.rxAccess (s : State) (a n : Nat) (go : Result) : Result :=
  if a + n > s.rxLen.toNat then .fault (.outsideValid .rx a n) else go

/-! ### Byte order (20_memory.md R61 to R64, 40_int_codec.md R111 to R114) -/

/-- A byte sequence seen by its index. -/
def byteView (S : List Byte) (i : Nat) : Byte := S.getD i 0

/-- `be16(v)`: the high byte first (40_int_codec.md R111). -/
def be16 (v : U16) : List Byte := [v.extractLsb' 8 8, v.extractLsb' 0 8]

/-- `be32(v)`: the most significant byte first (40_int_codec.md R113). -/
def be32 (v : U32) : List Byte :=
  [v.extractLsb' 24 8, v.extractLsb' 16 8, v.extractLsb' 8 8, v.extractLsb' 0 8]

/-- `mac(v)`: the six wire bytes of a hardware address (20_memory.md R64). -/
def mac (v : Addr48) : List Byte :=
  [v.extractLsb' 40 8, v.extractLsb' 32 8, v.extractLsb' 24 8, v.extractLsb' 16 8, v.extractLsb' 8 8,
    v.extractLsb' 0 8]

/-- `rd16(S, i) = S[i]*256 + S[i+1]` (40_int_codec.md R112). -/
def rd16 (S : Nat → Byte) (i : Nat) : U16 :=
  BitVec.ofNat 16 (256 * (S i).toNat + (S (i + 1)).toNat)

/-- `rd32(S, i) = S[i]*2^24 + S[i+1]*2^16 + S[i+2]*2^8 + S[i+3]` (40_int_codec.md R114). -/
def rd32 (S : Nat → Byte) (i : Nat) : U32 :=
  BitVec.ofNat 32 (2 ^ 24 * (S i).toNat + 2 ^ 16 * (S (i + 1)).toNat + 2 ^ 8 * (S (i + 2)).toNat +
    (S (i + 3)).toNat)

/-- `rdmac(S, i)`: the inverse of `mac` (20_memory.md R64). -/
def rdmac (S : Nat → Byte) (i : Nat) : Addr48 :=
  BitVec.ofNat 48 (2 ^ 40 * (S i).toNat + 2 ^ 32 * (S (i + 1)).toNat + 2 ^ 24 * (S (i + 2)).toNat +
    2 ^ 16 * (S (i + 3)).toNat + 2 ^ 8 * (S (i + 4)).toNat + (S (i + 5)).toNat)

/-- `zeros(n)`: `n` bytes of 0x00 (00_scope.md R8). -/
def zeros (n : Nat) : List Byte := List.replicate n 0#8

/-! ### How a command ends -/

/-- ERR written with a command's outcome (10_state.md R24). -/
def State.setErr (s : State) (e : ErrCode) : State := { s with err := e }

/-- `raise E`: the command ends at once with ERR <- E; the writes made before it stay, nothing else is written, and no
trap is taken (60_exceptions.md R191, R196). There is no return from it (R197). -/
def State.raise (s : State) (e : ErrCode) : State := s.setErr e

/-- `ERR <- 0x00` at the end of a command that succeeds (10_state.md R24). -/
def State.succeed (s : State) : State := s.setErr .ok

/-- The decode of the received frame dropped back to a stage: RX_STAGE <- stage, RX_VALID <- 0, IT_STATE <- IDLE,
KIND <- NONE (42_frame_codec.md R151, R152; 60_exceptions.md R206). -/
def State.dropDecode (s : State) (stage : RxStage) : State :=
  { s with rxStage := stage, rxValid := 0, itState := .idle, kind := .none }

/-- RES written with a scalar result (10_state.md R25). -/
def State.setRes (s : State) (v : U32) : State := { s with res := v }

/-- The BLK_ registers written with a parsed block (10_state.md R32). -/
def State.setBlk (s : State) (r : BlockRegs) : State := { s with blk := r }

/-- RX_STAGE written (10_state.md R28). -/
def State.setStage (s : State) (g : RxStage) : State := { s with rxStage := g }

/-- IT_STATE written (10_state.md R31). -/
def State.setItState (s : State) (i : ItState) : State := { s with itState := i }

/-- KIND written (10_state.md R33). -/
def State.setKind (s : State) (k : Kind) : State := { s with kind := k }

end Sys2Proof.Machine
end

