-- ==== Sys2Proof/Machine/RegMap.lean ====
section
/-! DEFINITION. The register map of 10_state.md R22 as data: each register's number, width and host access right. -/

namespace Sys2Proof

/-- A host access right of 10_state.md R22: `R`, `RW`, or CMD's `W*`. -/
inductive Access where
  | readOnly
  | readWrite
  | command
deriving DecidableEq, Repr

/-- The register's number, its address in the register space (10_state.md R22, column "no."). -/
def Reg.number : Reg → Byte
  | .cmd => 0x00#8
  | .err => 0x01#8
  | .arg => 0x02#8
  | .res => 0x03#8
  | .byte0 => 0x04#8
  | .byte1 => 0x05#8
  | .byte2 => 0x06#8
  | .byte3 => 0x07#8
  | .txDst => 0x10#8
  | .txSrc => 0x11#8
  | .txFrameId => 0x12#8
  | .txServiceId => 0x13#8
  | .txServiceType => 0x14#8
  | .txXid => 0x15#8
  | .txDelay => 0x16#8
  | .txOpt => 0x17#8
  | .txSub => 0x18#8
  | .valLen => 0x19#8
  | .txLen => 0x1A#8
  | .rxLen => 0x20#8
  | .rxStage => 0x21#8
  | .rxDst => 0x22#8
  | .rxSrc => 0x23#8
  | .rxEtype => 0x24#8
  | .rxFrameId => 0x25#8
  | .rxServiceId => 0x26#8
  | .rxServiceType => 0x27#8
  | .rxXid => 0x28#8
  | .rxDelay => 0x29#8
  | .rxPlen => 0x2A#8
  | .rxPavail => 0x2B#8
  | .rxValid => 0x2C#8
  | .itState => 0x30#8
  | .itCur => 0x31#8
  | .itRem => 0x32#8
  | .itNblk => 0x33#8
  | .blkOpt => 0x38#8
  | .blkSub => 0x39#8
  | .blkLen => 0x3A#8
  | .blkStatus => 0x3B#8
  | .blkPoff => 0x3C#8
  | .blkVoff => 0x3D#8
  | .blkVlen => 0x3E#8
  | .blkPad => 0x3F#8
  | .blkCons => 0x40#8
  | .kind => 0x48#8
  | .ackStatus => 0x49#8
  | .ackKnown => 0x4A#8

/-- The register's width in bits (10_state.md R22, column "width"). -/
def Reg.width : Reg → Nat
  | .cmd => 8
  | .err => 8
  | .arg => 32
  | .res => 32
  | .byte0 => 8
  | .byte1 => 8
  | .byte2 => 8
  | .byte3 => 8
  | .txDst => 48
  | .txSrc => 48
  | .txFrameId => 16
  | .txServiceId => 8
  | .txServiceType => 8
  | .txXid => 32
  | .txDelay => 16
  | .txOpt => 8
  | .txSub => 8
  | .valLen => 16
  | .txLen => 32
  | .rxLen => 32
  | .rxStage => 2
  | .rxDst => 48
  | .rxSrc => 48
  | .rxEtype => 16
  | .rxFrameId => 16
  | .rxServiceId => 8
  | .rxServiceType => 8
  | .rxXid => 32
  | .rxDelay => 16
  | .rxPlen => 16
  | .rxPavail => 32
  | .rxValid => 1
  | .itState => 3
  | .itCur => 16
  | .itRem => 16
  | .itNblk => 16
  | .blkOpt => 8
  | .blkSub => 8
  | .blkLen => 16
  | .blkStatus => 16
  | .blkPoff => 32
  | .blkVoff => 32
  | .blkVlen => 16
  | .blkPad => 1
  | .blkCons => 17
  | .kind => 2
  | .ackStatus => 8
  | .ackKnown => 1

/-- The host's access right (10_state.md R22, column "host"). -/
def Reg.access : Reg → Access
  | .cmd => .command
  | .err => .readOnly
  | .arg => .readWrite
  | .res => .readOnly
  | .byte0 => .readWrite
  | .byte1 => .readWrite
  | .byte2 => .readWrite
  | .byte3 => .readWrite
  | .txDst => .readWrite
  | .txSrc => .readWrite
  | .txFrameId => .readWrite
  | .txServiceId => .readWrite
  | .txServiceType => .readWrite
  | .txXid => .readWrite
  | .txDelay => .readWrite
  | .txOpt => .readWrite
  | .txSub => .readWrite
  | .valLen => .readWrite
  | .txLen => .readOnly
  | .rxLen => .readOnly
  | .rxStage => .readOnly
  | .rxDst => .readOnly
  | .rxSrc => .readOnly
  | .rxEtype => .readOnly
  | .rxFrameId => .readOnly
  | .rxServiceId => .readOnly
  | .rxServiceType => .readOnly
  | .rxXid => .readOnly
  | .rxDelay => .readOnly
  | .rxPlen => .readOnly
  | .rxPavail => .readOnly
  | .rxValid => .readOnly
  | .itState => .readOnly
  | .itCur => .readOnly
  | .itRem => .readOnly
  | .itNblk => .readOnly
  | .blkOpt => .readOnly
  | .blkSub => .readOnly
  | .blkLen => .readOnly
  | .blkStatus => .readOnly
  | .blkPoff => .readOnly
  | .blkVoff => .readOnly
  | .blkVlen => .readOnly
  | .blkPad => .readOnly
  | .blkCons => .readOnly
  | .kind => .readOnly
  | .ackStatus => .readOnly
  | .ackKnown => .readOnly

/-- Every register, in the order of 10_state.md R22. -/
def Reg.all : List Reg :=
  [.cmd, .err, .arg, .res, .byte0, .byte1, .byte2, .byte3, .txDst, .txSrc, .txFrameId, .txServiceId,
   .txServiceType, .txXid, .txDelay, .txOpt, .txSub, .valLen, .txLen, .rxLen, .rxStage, .rxDst, .rxSrc,
   .rxEtype, .rxFrameId, .rxServiceId, .rxServiceType, .rxXid, .rxDelay, .rxPlen, .rxPavail, .rxValid,
   .itState, .itCur, .itRem, .itNblk, .blkOpt, .blkSub, .blkLen, .blkStatus, .blkPoff, .blkVoff,
   .blkVlen, .blkPad, .blkCons, .kind, .ackStatus, .ackKnown]

/-- The register with a given number; none for a reserved number (10_state.md R22). -/
def Reg.ofNumber (n : Byte) : Option Reg := Reg.all.find? fun r => r.number == n

end Sys2Proof
end

