-- ==== Sys2Proof/Machine/Operands.lean ====
section
/-! DEFINITION. The operands: a command takes its operands from fixed registers and buffers (30_encoding.md R84), so the
operand forms of this block are the registers a host reads and writes by number (10_state.md R22), the byte window
(R26) and the scalar results. -/

namespace Sys2Proof.Machine

open Sys2Proof

/-- The byte window BYTE0..BYTE3 in wire order (10_state.md R26). -/
def State.window (s : State) : List Byte := [s.byte0, s.byte1, s.byte2, s.byte3]

/-- `zext_32`: a value widened to RES's 32 bits with zeros above (00_scope.md R7). -/
def zext32 {w : Nat} (v : BitVec w) : U32 := v.setWidth 32

/-- `ARG[15:0]`, the operand of U16ENC (40_int_codec.md R115). -/
def State.argLow (s : State) : U16 := s.arg.extractLsb' 0 16

/-- The value a host reads from a named register (10_state.md R22). -/
def State.getReg (s : State) : Reg → Nat
  | .cmd => s.cmd.toNat
  | .err => s.err.code.toNat
  | .arg => s.arg.toNat
  | .res => s.res.toNat
  | .byte0 => s.byte0.toNat
  | .byte1 => s.byte1.toNat
  | .byte2 => s.byte2.toNat
  | .byte3 => s.byte3.toNat
  | .txDst => s.txDst.toNat
  | .txSrc => s.txSrc.toNat
  | .txFrameId => s.txFrameId.toNat
  | .txServiceId => s.txServiceId.toNat
  | .txServiceType => s.txServiceType.toNat
  | .txXid => s.txXid.toNat
  | .txDelay => s.txDelay.toNat
  | .txOpt => s.txOpt.toNat
  | .txSub => s.txSub.toNat
  | .valLen => s.valLen.toNat
  | .txLen => s.txLen.toNat
  | .rxLen => s.rxLen.toNat
  | .rxStage => s.rxStage.code.toNat
  | .rxDst => s.rxDst.toNat
  | .rxSrc => s.rxSrc.toNat
  | .rxEtype => s.rxEtype.toNat
  | .rxFrameId => s.rxFrameId.toNat
  | .rxServiceId => s.rxServiceId.toNat
  | .rxServiceType => s.rxServiceType.toNat
  | .rxXid => s.rxXid.toNat
  | .rxDelay => s.rxDelay.toNat
  | .rxPlen => s.rxPlen.toNat
  | .rxPavail => s.rxPavail.toNat
  | .rxValid => s.rxValid.toNat
  | .itState => s.itState.code.toNat
  | .itCur => s.itCur.toNat
  | .itRem => s.itRem.toNat
  | .itNblk => s.itNblk.toNat
  | .blkOpt => s.blk.opt.toNat
  | .blkSub => s.blk.sub.toNat
  | .blkLen => s.blk.len.toNat
  | .blkStatus => s.blk.status.toNat
  | .blkPoff => s.blk.poff.toNat
  | .blkVoff => s.blk.voff.toNat
  | .blkVlen => s.blk.vlen.toNat
  | .blkPad => s.blk.pad.toNat
  | .blkCons => s.blk.cons.toNat
  | .kind => s.kind.code.toNat
  | .ackStatus => s.ackStatus.toNat
  | .ackKnown => s.ackKnown.toNat

/-- A named register after a host stores a value in it: the RW registers take it, every other register is unchanged (CMD
takes its value where the command is issued: 10_state.md R22, R23). -/
def State.setReg (s : State) (r : Reg) (v : Nat) : State :=
  match r with
  | .cmd => s
  | .err => s
  | .arg => { s with arg := BitVec.ofNat 32 v }
  | .res => s
  | .byte0 => { s with byte0 := BitVec.ofNat 8 v }
  | .byte1 => { s with byte1 := BitVec.ofNat 8 v }
  | .byte2 => { s with byte2 := BitVec.ofNat 8 v }
  | .byte3 => { s with byte3 := BitVec.ofNat 8 v }
  | .txDst => { s with txDst := BitVec.ofNat 48 v }
  | .txSrc => { s with txSrc := BitVec.ofNat 48 v }
  | .txFrameId => { s with txFrameId := BitVec.ofNat 16 v }
  | .txServiceId => { s with txServiceId := BitVec.ofNat 8 v }
  | .txServiceType => { s with txServiceType := BitVec.ofNat 8 v }
  | .txXid => { s with txXid := BitVec.ofNat 32 v }
  | .txDelay => { s with txDelay := BitVec.ofNat 16 v }
  | .txOpt => { s with txOpt := BitVec.ofNat 8 v }
  | .txSub => { s with txSub := BitVec.ofNat 8 v }
  | .valLen => { s with valLen := BitVec.ofNat 16 v }
  | .txLen => s
  | .rxLen => s
  | .rxStage => s
  | .rxDst => s
  | .rxSrc => s
  | .rxEtype => s
  | .rxFrameId => s
  | .rxServiceId => s
  | .rxServiceType => s
  | .rxXid => s
  | .rxDelay => s
  | .rxPlen => s
  | .rxPavail => s
  | .rxValid => s
  | .itState => s
  | .itCur => s
  | .itRem => s
  | .itNblk => s
  | .blkOpt => s
  | .blkSub => s
  | .blkLen => s
  | .blkStatus => s
  | .blkPoff => s
  | .blkVoff => s
  | .blkVlen => s
  | .blkPad => s
  | .blkCons => s
  | .kind => s
  | .ackStatus => s
  | .ackKnown => s

/-- The value a host reads from a register number: 0 for a reserved number (10_state.md R22). -/
def State.readReg (s : State) (n : Byte) : Nat :=
  match Reg.ofNumber n with
  | none => 0
  | some r => s.getReg r

end Sys2Proof.Machine
end

