-- ==== Sys2Proof/Machine/BlockCodec.lean ====
section
/-! DEFINITION. The block codec (41_block_codec.md): the block-request encoder, the consumed span, the response-block
parser, and BLKDEC. -/

namespace Sys2Proof.Machine

open Sys2Proof

/-- `blockReq(opt, sub, V)`: option, suboption, the value's length before padding, the value, and a zero pad byte after an
odd value (41_block_codec.md R130, 30_encoding.md R91). -/
def blockReq (opt sub : Byte) (V : List Byte) : List Byte :=
  [opt, sub] ++ be16 (BitVec.ofNat 16 V.length) ++ V ++ zeros (V.length % 2)

/-- The response layout of a block with a given status; the pad byte after an odd length has any value (30_encoding.md
R92, 41_block_codec.md R134). -/
def blockResp (opt sub : Byte) (status : U16) (V : List Byte) (pad : Byte) : List Byte :=
  [opt, sub] ++ be16 (BitVec.ofNat 16 (V.length + 2)) ++ be16 status ++ V ++
    List.replicate ((V.length + 2) % 2) pad

/-- `cons(len) = len + (len mod 2) + 4`, the consumed span of a response block (41_block_codec.md R131). -/
def consumedSpan (len : Nat) : Nat := len + len % 2 + 4

/-- The block record of 41_block_codec.md R132. -/
def blockRecord (S : Nat → Byte) (p : Nat) : BlockRegs :=
  let len := rd16 S (p + 2)
  { opt := S p
    sub := S (p + 1)
    len := len
    status := rd16 S (p + 4)
    poff := BitVec.ofNat 32 p
    voff := BitVec.ofNat 32 (Config.rxPayloadBase + p + 6)
    vlen := BitVec.ofNat 16 (len.toNat - 2)
    pad := padBit len.toNat
    cons := BitVec.ofNat 17 (consumedSpan len.toNat) }

/-- `blockAt(p)` over a payload view `S` with `avail` valid bytes: header, then length minimum, then value
(41_block_codec.md R132, 60_exceptions.md R193). -/
def blockAtView (S : Nat → Byte) (avail p : Nat) : Except ErrCode BlockRegs :=
  if p + 4 > avail then .error .blkHdrTrunc
  else if (rd16 S (p + 2)).toNat < 2 then .error .blkLenSmall
  else if p + 4 + (rd16 S (p + 2)).toNat > avail then .error .blkValTrunc
  else .ok (blockRecord S p)

/-- `blockAt(p)` on the received frame: the payload view with its RX_PAVAIL valid bytes (41_block_codec.md R132). -/
def State.blockAt (s : State) (p : Nat) : Except ErrCode BlockRegs :=
  blockAtView s.payloadByte s.rxPavail.toNat p

/-- An access to the payload view goes on only where its RX_PAVAIL bytes are among the valid bytes of RXBUF, "26 +
RX_PAVAIL = RXLEN for the payload view" (20_memory.md R66; log 7). -/
def State.payloadAccess (s : State) (go : Result) : Result :=
  s.rxAccess Config.rxPayloadBase s.rxPavail.toNat go

/-- BLKDEC (41_block_codec.md R133). -/
def execBlkdec (s : State) : Result :=
  if s.rxStage ≠ .pktOk then .next (s.raise .sequence)
  else s.payloadAccess <|
    match s.blockAt s.arg.toNat with
    | .error e => .next (s.raise e)
    | .ok r => .next ((s.setBlk r).setRes (zext32 r.cons)).succeed

end Sys2Proof.Machine
end

