-- ==== Sys2Proof/Machine/FrameCodec.lean ====
section
/-! DEFINITION. The frame codec (42_frame_codec.md): TXBUILD, ETHDEC, PKTDEC, VALIDATE. -/

namespace Sys2Proof.Machine

open Sys2Proof

/-- `ethHdr(dst, src)`, the 14-byte Ethernet header (42_frame_codec.md R154, 30_encoding.md R86). -/
def ethHdr (dst src : Addr48) : List Byte := mac dst ++ mac src ++ be16 Config.ethertypeDcp

/-- `pktHdr`, the 12-byte packet header (42_frame_codec.md R155, 30_encoding.md R88). -/
def pktHdr (fid : U16) (sid stype : Byte) (xid : U32) (delay plen : U16) : List Byte :=
  be16 fid ++ [sid] ++ [stype] ++ be32 xid ++ be16 delay ++ be16 plen

/-- The payload TXBUILD sends: one block-request with the value VALBUF[0 .. VALLEN) (42_frame_codec.md R150). -/
def State.txPayload (s : State) : List Byte :=
  blockReq s.txOpt s.txSub (s.memRead .val 0 s.valLen.toNat)

/-- The length of a request frame before the trailer, `body = 26 + plen` (42_frame_codec.md R150). -/
def State.txBody (s : State) : Nat := Config.rxPayloadBase + s.txPayload.length

/-- The length of the whole frame, `total = max(body, TX_MIN_FRAME_LEN)` (42_frame_codec.md R150). -/
def State.txTotal (P : Params) (s : State) : Nat := max s.txBody P.txMinFrameLen

/-- The frame TXBUILD builds: Ethernet header, packet header with the recomputed payload length, payload, trailer
(42_frame_codec.md R150, R156; 30_encoding.md R97). -/
def State.txFrame (P : Params) (s : State) : List Byte :=
  ethHdr s.txDst s.txSrc ++
    pktHdr s.txFrameId s.txServiceId s.txServiceType s.txXid s.txDelay (BitVec.ofNat 16 s.txPayload.length) ++
    s.txPayload ++ zeros (s.txTotal P - s.txBody)

/-- `total` as TXLEN and RES hold it, 32 bits; TX_CAP keeps it within them (00_scope.md R6, 42_frame_codec.md R150). -/
def State.txTotal32 (P : Params) (s : State) : U32 := BitVec.ofNat 32 (s.txTotal P)

/-- A built frame stored: `MemWrite(TXBUF, 0, total, frame)` and TXLEN <- total (42_frame_codec.md R150). -/
def State.storeFrame (s : State) (frame : List Byte) (total : U32) : State :=
  { s with txBuf := s.txBuf.write 0 frame, txLen := total }

/-- The envelope registers written: RX_DST, RX_SRC, RX_ETYPE (42_frame_codec.md R151). -/
def State.setEnvelope (s : State) (dst src : Addr48) (etype : U16) : State :=
  { s with rxDst := dst, rxSrc := src, rxEtype := etype }

/-- The packet header registers, RX_PAVAIL and RX_VALID written from the frame in RXBUF (42_frame_codec.md R152). -/
def State.setHeader (s : State) : State :=
  { s with
    rxFrameId := rd16 s.rxByte 14
    rxServiceId := s.rxByte 16
    rxServiceType := s.rxByte 17
    rxXid := rd32 s.rxByte 18
    rxDelay := rd16 s.rxByte 22
    rxPlen := rd16 s.rxByte 24
    rxPavail := BitVec.ofNat 32 (s.rxLen.toNat - Config.rxPayloadBase)
    rxValid := validBit (s.rxByte 17) }

/-- TXBUILD under given parameters (42_frame_codec.md R150; the order of its checks: 60_exceptions.md R193). The write of
TXBUF stands after the test that the whole frame fits (20_memory.md R67). -/
def txbuild (P : Params) (s : State) : Result :=
  if s.valLen.toNat > P.valCap then .next (s.raise .valRange)
  else if s.txPayload.length > 65535 then .next (s.raise .payloadTooLong)
  else if s.txTotal P > P.txCap then .next (s.raise .txOverflow)
  else .next ((s.storeFrame (s.txFrame P) (s.txTotal32 P)).setRes (s.txTotal32 P)).succeed

/-- TXBUILD (42_frame_codec.md R150). -/
def execTxbuild (s : State) : Result := txbuild Config.params s

/-- ETHDEC (42_frame_codec.md R151). -/
def execEthdec (s : State) : Result :=
  let dropped := s.dropDecode .none
  if s.rxLen.toNat < Config.ethHdrLen then .next (dropped.raise .frameShort)
  else
    let decoded := dropped.setEnvelope (rdmac s.rxByte 0) (rdmac s.rxByte 6) (rd16 s.rxByte 12)
    if rd16 s.rxByte 12 ≠ Config.ethertypeDcp then .next (decoded.raise .etherType)
    else .next (decoded.setStage .ethOk).succeed

/-- PKTDEC (42_frame_codec.md R152). -/
def execPktdec (s : State) : Result :=
  if s.rxStage = .none then .next (s.raise .sequence)
  else
    let dropped := s.dropDecode .ethOk
    if s.rxLen.toNat < Config.rxPayloadBase then .next (dropped.raise .pktShort)
    else .next (dropped.setHeader.setStage .pktOk).succeed

/-- VALIDATE: RES is the validity bit in both outcomes (42_frame_codec.md R153, 90_conflicts.md C6). -/
def execValidate (s : State) : Result :=
  if s.rxStage ≠ .pktOk then .next (s.raise .sequence)
  else if s.rxValid = 1#1 then .next (s.setRes (zext32 s.rxValid)).succeed
  else .next ((s.setRes (zext32 s.rxValid)).raise .notResponse)

end Sys2Proof.Machine
end

