-- ==== Sys2Proof/Machine/IntCodec.lean ====
section
/-! DEFINITION. The integer codec commands (40_int_codec.md): NOP, U16ENC, U16DEC, U32ENC, U32DEC, RXRD8, RXRD16,
RXRD32. -/

namespace Sys2Proof.Machine

open Sys2Proof

/-- NOP (40_int_codec.md R110). -/
def execNop (s : State) : Result := .next s.succeed

/-- U16ENC (40_int_codec.md R115). -/
def execU16enc (s : State) : Result :=
  let bytes := byteView (be16 s.argLow)
  .next { s with byte0 := bytes 0, byte1 := bytes 1 }.succeed

/-- U16DEC (40_int_codec.md R116). -/
def execU16dec (s : State) : Result :=
  .next (s.setRes (zext32 (rd16 (byteView [s.byte0, s.byte1]) 0))).succeed

/-- U32ENC (40_int_codec.md R117). -/
def execU32enc (s : State) : Result :=
  let bytes := byteView (be32 s.arg)
  .next { s with byte0 := bytes 0, byte1 := bytes 1, byte2 := bytes 2, byte3 := bytes 3 }.succeed

/-- U32DEC (40_int_codec.md R118). -/
def execU32dec (s : State) : Result :=
  .next (s.setRes (rd32 (byteView s.window) 0)).succeed

/-- A read of `n` bytes of the received frame at ARG with a scalar result: E_RX_OOB where they are not among the RXLEN
valid bytes; `ARG + n` does not wrap (40_int_codec.md R119 to R121). -/
def State.rxRead (s : State) (n : Nat) (value : U32) : State :=
  if s.arg.toNat + n > s.rxLen.toNat then s.raise .rxOob else (s.setRes value).succeed

/-- RXRD8 (40_int_codec.md R119). -/
def execRxrd8 (s : State) : Result := .next (s.rxRead 1 (zext32 (s.rxByte s.arg.toNat)))

/-- RXRD16 (40_int_codec.md R120). -/
def execRxrd16 (s : State) : Result := .next (s.rxRead 2 (zext32 (rd16 s.rxByte s.arg.toNat)))

/-- RXRD32 (40_int_codec.md R121). -/
def execRxrd32 (s : State) : Result := .next (s.rxRead 4 (rd32 s.rxByte s.arg.toNat))

end Sys2Proof.Machine
end

