-- ==== Sys2Proof/Machine/Iterator.lean ====
section
/-! DEFINITION. The payload iterator and the classification (43_iterator.md): the reference walk, ITSTART, ITNEXT,
CLASSIFY. -/

namespace Sys2Proof.Machine

open Sys2Proof

/-- The turns of the walk from a cursor with a remaining length, at most `fuel` of them (43_iterator.md R170). -/
def walkFrom (S : Nat → Byte) (avail : Nat) : Nat → Nat → Nat → List BlockRegs × ErrCode
  | 0, _, _ => ([], .ok)
  | fuel + 1, cur, rem =>
    if rem > Config.walkMin then
      match blockAtView S avail cur with
      | .error e => ([], e)
      | .ok r =>
        if r.cons.toNat > rem then ([], .blkOverrun)
        else
          let rest := walkFrom S avail fuel (cur + r.cons.toNat) (rem - r.cons.toNat)
          (r :: rest.1, rest.2)
    else ([], .ok)

/-- `walk()`: the blocks the document's block-walking yields from the current packet, and how it ended (43_iterator.md
R170). A turn lowers the remaining length by at least 6, so RX_PLEN turns are never too few. -/
def State.walk (s : State) : List BlockRegs × ErrCode :=
  walkFrom s.payloadByte s.rxPavail.toNat (s.rxPlen.toNat + 1) 0 s.rxPlen.toNat

/-- The walk set up at its first block (43_iterator.md R171). -/
def State.startWalk (s : State) : State :=
  { s with itCur := 0, itRem := s.rxPlen, itNblk := 0, itState := .ready }

/-- A block yielded: the BLK_ registers written, the cursor moved past the block's span, the remaining length lowered by
it, the count raised (43_iterator.md R172; the registers do not wrap in a reachable state: log 12). -/
def State.yieldBlock (s : State) (r : BlockRegs) : State :=
  { s with
    blk := r
    itCur := BitVec.ofNat 16 (s.itCur.toNat + r.cons.toNat)
    itRem := BitVec.ofNat 16 (s.itRem.toNat - r.cons.toNat)
    itNblk := s.itNblk + 1
    itState := .block }

/-- ITSTART (43_iterator.md R171). -/
def execItstart (s : State) : Result :=
  if s.rxStage ≠ .pktOk then .next (s.raise .sequence)
  else .next (s.startWalk.setRes 0).succeed

/-- ITNEXT: one turn of the walk (43_iterator.md R172). -/
def execItnext (s : State) : Result :=
  if s.itState = .idle ∨ s.itState = .error then .next (s.raise .sequence)
  else if s.itState = .done ∨ s.itRem.toNat ≤ Config.walkMin then
    .next ((s.setItState .done).setRes 0).succeed
  else s.payloadAccess <|
    match s.blockAt s.itCur.toNat with
    | .error e => .next ((s.setItState .error).raise e)
    | .ok r =>
      if r.cons.toNat > s.itRem.toNat then .next ((s.setItState .error).raise .blkOverrun)
      else .next ((s.yieldBlock r).setRes 1).succeed

/-- KIND, ACK_STATUS and ACK_KNOWN written (10_state.md R33). -/
def State.setClass (s : State) (k : Kind) (status : Byte) (known : BitVec 1) : State :=
  { s with kind := k, ackStatus := status, ackKnown := known }

/-- KIND, ACK_STATUS, ACK_KNOWN and RES written by a classification that succeeds; RES is KIND's value (10_state.md R25,
43_iterator.md R173). -/
def State.classifyAs (s : State) (k : Kind) (status : Byte) (known : BitVec 1) (result : U32) : State :=
  ((s.setClass k status known).setRes result).succeed

/-- KIND <- NONE and `raise E`, the end of a classification that fails (43_iterator.md R173). -/
def State.classifyError (s : State) (e : ErrCode) : State := (s.setKind .none).raise e

/-- CLASSIFY under given parameters (43_iterator.md R173; the order of its checks: 60_exceptions.md R193). -/
def classify (P : Params) (s : State) : Result :=
  if s.rxStage ≠ .pktOk then .next (s.raise .sequence)
  else if s.rxPlen.toNat ≤ Config.walkMin then .next (s.classifyAs .deviceData 0 0 1)
  else s.payloadAccess <|
    match s.blockAt 0 with
    | .error e => .next (s.classifyError e)
    | .ok r =>
      if r.cons.toNat > s.rxPlen.toNat then .next (s.classifyError .blkOverrun)
      else if r.opt = Config.controlOption then
        if P.ackStatusOffset ≥ s.rxPavail.toNat then .next (s.classifyError .ackOob)
        else
          let status := s.payloadByte P.ackStatusOffset
          .next (s.classifyAs .ack status (ackKnownBit status) 2)
      else .next (s.classifyAs .deviceData 0 0 1)

/-- CLASSIFY (43_iterator.md R173). -/
def execClassify (s : State) : Result := classify Config.params s

end Sys2Proof.Machine
end

