-- ==== Sys2Proof/Machine/Dispatch.lean ====
section
/-! DEFINITION. One arm per command of 30_encoding.md R82, each a direct call of its meaning. -/

namespace Sys2Proof.Machine

open Sys2Proof

def exec (i : Instr) (s : State) : Host.Outcome State Fault Refusal :=
  match i with
  | .nop => Sys2Proof.Machine.execNop s
  | .u16enc => Sys2Proof.Machine.execU16enc s
  | .u16dec => Sys2Proof.Machine.execU16dec s
  | .u32enc => Sys2Proof.Machine.execU32enc s
  | .u32dec => Sys2Proof.Machine.execU32dec s
  | .rxrd8 => Sys2Proof.Machine.execRxrd8 s
  | .rxrd16 => Sys2Proof.Machine.execRxrd16 s
  | .rxrd32 => Sys2Proof.Machine.execRxrd32 s
  | .txbuild => Sys2Proof.Machine.execTxbuild s
  | .ethdec => Sys2Proof.Machine.execEthdec s
  | .pktdec => Sys2Proof.Machine.execPktdec s
  | .validate => Sys2Proof.Machine.execValidate s
  | .blkdec => Sys2Proof.Machine.execBlkdec s
  | .itstart => Sys2Proof.Machine.execItstart s
  | .itnext => Sys2Proof.Machine.execItnext s
  | .classify => Sys2Proof.Machine.execClassify s

end Sys2Proof.Machine
end

