-- ==== Sys2Proof/Machine/HostPort.lean ====
section
/-! DEFINITION. The host's operations on the block (60_exceptions.md R205, R206; 10_state.md R22, R23;
70_reset_and_hazards.md R220): each is one atomic step. -/

namespace Sys2Proof.Machine

open Sys2Proof

/-- The state in which an issued command runs: the byte written is stored in CMD first (10_state.md R23). -/
def State.withCmd (s : State) (c : Byte) : State := { s with cmd := c }

/-- A host write of byte `c` to CMD: CMD takes `c`, and the command with that opcode is performed; an illegal opcode sets
ERR to E_ILLEGAL_CMD and writes nothing else (10_state.md R23, 60_exceptions.md R194). -/
def issue (c : Byte) (s : State) : Result :=
  match decode c with
  | .ok i => exec i (s.withCmd c)
  | .error (.illegalOpcode _) => .next ((s.withCmd c).raise .illegalCmd)

/-- A host register write (60_exceptions.md R205, 10_state.md R22): RW stores, R ignores, CMD issues. A value that does not
have the register's width is outside R205's table and gets no step (log 10); a reserved number has no width, and a write
to it has no effect (log 11). -/
def hostWriteReg (n : Byte) (v : Nat) (s : State) : Result :=
  match Reg.ofNumber n with
  | none => .next s
  | some r =>
    if v < 2 ^ r.width then
      match r.access with
      | .readOnly => .next s
      | .readWrite => .next (s.setReg r v)
      | .command => issue (BitVec.ofNat 8 v) s
    else .refused (.valueTooWide r)

/-- What the host gets back from an operation (60_exceptions.md R205; log 2). -/
def State.setReply (s : State) (r : Reply) : State := { s with reply := r }

/-- A host register read: the block does nothing, the host gets the value (60_exceptions.md R205). -/
def hostReadReg (n : Byte) (s : State) : Result := .next (s.setReply (.value (s.readReg n)))

/-- `VALBUF[a ..) <- S` (60_exceptions.md R205). -/
def State.storeVal (s : State) (a : Nat) (bytes : List Byte) : State := { s with valBuf := s.valBuf.write a bytes }

/-- A host VALBUF write of bytes at `a` (60_exceptions.md R205). -/
def hostWriteVal (P : Params) (a : Nat) (bytes : List Byte) (s : State) : Result :=
  if a + bytes.length > P.valCap then .refused .valWriteOutOfRange
  else .next (s.storeVal a bytes)

/-- A host read of `n` bytes of TXBUF within its valid part (60_exceptions.md R205). -/
def hostReadTx (a n : Nat) (s : State) : Result :=
  if a + n > s.txLen.toNat then .refused (.readOutOfRange .tx)
  else .next (s.setReply (.bytes (s.memRead .tx a n)))

/-- A direct host read of RXBUF is outside the table of 60_exceptions.md R205: "A model gives it no step" (log 9). The
host's read of RXBUF is `readRxByteOps`. -/
def hostReadRx (_ _ : Nat) (_ : State) : Result := .refused (.notInTable .rx)

/-- `RXBUF[0 .. len S) <- S` and RXLEN <- len S (60_exceptions.md R206). -/
def State.storeRx (s : State) (frame : List Byte) : State :=
  { s with rxBuf := s.rxBuf.write 0 frame, rxLen := BitVec.ofNat 32 frame.length }

/-- A host frame load: RXBUF and RXLEN take the frame, every decode of the previous frame is invalidated, ERR and all
other registers are unchanged, bytes above the frame keep their values (60_exceptions.md R206). -/
def hostLoad (P : Params) (frame : List Byte) (s : State) : Result :=
  if frame.length > P.rxCap then .refused .frameTooLong
  else .next ((s.storeRx frame).dropDecode .none)

/-- A host reset: every register takes its reset value, the buffers' contents become unspecified again, no command is
issued (70_reset_and_hazards.md R220). The host's own list of operations stays, and a new epoch draws the unwritten
bytes anew (log 5, log 14). -/
def hostReset (s : State) : Result :=
  .next { State.reset with hostOps := s.hostOps, epoch := s.epoch + 1 }

/-- One host operation performed by the block (60_exceptions.md R205). -/
def hostStep (op : HostOp) (s : State) : Result :=
  match op with
  | .writeReg n v => hostWriteReg n v s
  | .readReg n => hostReadReg n s
  | .writeVal a bytes => hostWriteVal Config.params a bytes s
  | .readTx a n => hostReadTx a n s
  | .readRx a n => hostReadRx a n s
  | .load frame => hostLoad Config.params frame s
  | .reset => hostReset s

/-- The state in which the next host operation is performed: it leaves the list, and the host has got nothing back from
it yet (log 1, log 2). -/
def State.takeOp (s : State) (rest : List HostOp) : State := { s with hostOps := rest, reply := .nothing }

/-- A write of a command byte to CMD, as the host sends it (30_encoding.md R85). -/
def commandOp (c : Byte) : HostOp := .writeReg Reg.cmd.number c.toNat

/-- The pseudo-operation `WRVAL`: one VALBUF write and `WR VALLEN, <count>` (30_encoding.md R85). -/
def wrvalOps (bytes : List Byte) : List HostOp :=
  [.writeVal 0 bytes, .writeReg Reg.valLen.number bytes.length]

/-- The host's read of the byte `RXBUF[a]`, with R205's operations: `WR ARG, a`; RXRD8; read RES (40_int_codec.md R119;
10_state.md R32 and 70_reset_and_hazards.md R225 have the host read value bytes; log 9). -/
def readRxByteOps (a : Nat) : List HostOp :=
  [.writeReg Reg.arg.number a, commandOp (encode .rxrd8), .readReg Reg.res.number]

/-- Host operations performed one after the other (20_memory.md R72), to the first that stops. -/
def hostRun : List HostOp → State → Result
  | [], s => .next s
  | op :: rest, s =>
    match hostStep op s with
    | .next t => hostRun rest t
    | .fault f => .fault f
    | .refused e => .refused e

/-- The host's rule for going on after a command: only while ERR is 0x00 (30_encoding.md R85). -/
def thenIfOk (r : Result) (next : State → Result) : Result :=
  match r with
  | .next s => if s.err = .ok then next s else .next s
  | .fault f => .fault f
  | .refused e => .refused e

/-- The pseudo-command `RXHDR`: ETHDEC, PKTDEC, VALIDATE, the host stopping after the first that leaves ERR different from
0x00 (30_encoding.md R85). -/
def rxHdr (s : State) : Result :=
  thenIfOk (issue (encode .ethdec) s) fun s1 =>
    thenIfOk (issue (encode .pktdec) s1) fun s2 => issue (encode .validate) s2

end Sys2Proof.Machine
end

