-- ==== Sys2Proof/Machine/Step.lean ====
section
/-! DEFINITION. One step of the machine: the block performs the next host operation (10_state.md R21: "its step is
'perform the command written to CMD'"; 20_memory.md R70, R72). -/

namespace Sys2Proof.Machine

open Sys2Proof

/-- One step: the next host operation, or nothing where the host sends none (60_exceptions.md R202; log 1, log 13). -/
def step (s : State) : Host.Outcome State Fault Refusal :=
  match s.hostOps with
  | [] => .next s
  | op :: rest => hostStep op (s.takeOp rest)

/-- The state with a command as the host's next operation: a write of the word's byte to CMD stands at the head of the
host's list (log 1). -/
def State.withFetchWord (s : State) (nbits w : Nat) : State :=
  { s with hostOps := commandOp (commandByte nbits w) :: s.hostOps }

end Sys2Proof.Machine
end

