-- ==== Sys2Proof/Safety.lean ====
section
/-! DEFINITION. What holds of every state a run reaches, and what a safe run is. -/

namespace Sys2Proof.Machine

open Sys2Proof

/-- Every written address of a buffer exists (20_memory.md R60). -/
def Memory.within (m : Memory) (cap : Nat) : Prop := ∀ c ∈ m, c.1 < cap

/-- The first `n` bytes of a buffer have been written since reset. -/
def Memory.written (m : Memory) (n : Nat) : Prop := ∀ a < n, (m.read? a).isSome

/-- The BLK_ registers agree with each other as 10_state.md R32 says of a decoded block. -/
structure BlockRegs.Coherent (r : BlockRegs) : Prop where
  len_ge : 2 ≤ r.len.toNat
  voff_eq : r.voff.toNat = 26 + r.poff.toNat + 6
  vlen_eq : r.vlen.toNat = r.len.toNat - 2
  pad_eq : r.pad.toNat = r.len.toNat % 2
  cons_eq : r.cons.toNat = r.len.toNat + r.pad.toNat + 4

/-- The invariant of the block's reachable states. -/
structure Inv (P : Params) (s : State) : Prop where
  /-- The buffers are in canonical form (log 6). -/
  rxBuf_wf : s.rxBuf.wf
  txBuf_wf : s.txBuf.wf
  valBuf_wf : s.valBuf.wf
  /-- Only addresses that exist hold written bytes (20_memory.md R60). -/
  rxBuf_within : s.rxBuf.within P.rxCap
  txBuf_within : s.txBuf.within P.txCap
  valBuf_within : s.valBuf.within P.valCap
  /-- 10_state.md R30: RXLEN is at most RX_CAP. -/
  rxLen_le : s.rxLen.toNat ≤ P.rxCap
  /-- 10_state.md R34: the valid part of TXBUF lies in TXBUF. -/
  txLen_le : s.txLen.toNat ≤ P.txCap
  /-- 10_state.md R35: no valid byte of RXBUF or TXBUF is unspecified. -/
  rx_written : s.rxBuf.written s.rxLen.toNat
  tx_written : s.txBuf.written s.txLen.toNat
  /-- 10_state.md R28, R29: a decoded envelope is one of a frame that holds it, with the ethertype 0x8892. -/
  eth_decoded : s.rxStage ≠ .none → 14 ≤ s.rxLen.toNat ∧ s.rxEtype = 0x8892#16
  /-- 10_state.md R29: RX_PAVAIL is RXLEN - 26 at PKT_OK. -/
  pkt_decoded : s.rxStage = .pktOk → 26 + s.rxPavail.toNat = s.rxLen.toNat
  /-- 10_state.md R29: RX_VALID is 1 iff RX_SERVICE_TYPE is 1 at PKT_OK, and 0 before. -/
  valid_bit : s.rxValid = if s.rxStage = .pktOk ∧ s.rxServiceType = 1#8 then 1#1 else 0#1
  /-- 10_state.md R31: a started walk is one of a decoded packet, and `IT_CUR + IT_REM = RX_PLEN`. -/
  walk_sum : s.itState ≠ .idle → s.rxStage = .pktOk ∧ s.itCur.toNat + s.itRem.toNat = s.rxPlen.toNat
  /-- 43_iterator.md R172: each yielded block moved the cursor by at least 6. -/
  walk_count : s.itState ≠ .idle → 6 * s.itNblk.toNat ≤ s.itCur.toNat
  /-- 10_state.md R31: READY is a started walk with no block yielded yet. -/
  walk_ready : s.itState = .ready → s.itCur = 0#16 ∧ s.itNblk = 0#16
  /-- 43_iterator.md R176: a walk that ended OK leaves at most 6 bytes. -/
  walk_done : s.itState = .done → s.itRem.toNat ≤ 6
  /-- 10_state.md R33: a classification is one of a decoded packet. -/
  kind_stage : s.kind ≠ .none → s.rxStage = .pktOk
  /-- 10_state.md R33: ACK_STATUS and ACK_KNOWN of device data are 0. -/
  kind_data : s.kind = .deviceData → s.ackStatus = 0#8 ∧ s.ackKnown = 0#1
  /-- 10_state.md R33: ACK_KNOWN of an acknowledgement is 1 iff its status byte is at most 6. -/
  kind_ack : s.kind = .ack → s.ackKnown = if s.ackStatus.toNat ≤ 6 then 1#1 else 0#1
  /-- 10_state.md R32: the BLK_ registers hold a decoded block, or their reset values. -/
  blk_coherent : s.blk = BlockRegs.zero ∨ s.blk.Coherent

/-- A step is safe: it does not fault. A host operation outside its range may still be refused
(60_exceptions.md R205). -/
def SafeStep (s : State) : Prop := ∀ f, step s ≠ .fault f

/-- The host issuing ITNEXT until RES = 0 or ERR is not 0x00, at most `n` times: the blocks found in the BLK_ registers
after each ITNEXT that went on, and the state after the last one (43_iterator.md R174). -/
def hostWalk : Nat → State → Option (List BlockRegs × State)
  | 0, _ => none
  | n + 1, s =>
    match exec .itnext s with
    | .next t =>
      if t.res = 0 ∨ t.err ≠ .ok then some ([], t)
      else (hostWalk n t).map fun r => (t.blk :: r.1, r.2)
    | .fault _ => none
    | .refused _ => none

/-- The fields of one response block that a consumer reads (30_encoding.md R92, 10_state.md R32). -/
structure BlockFields where
  opt : Byte
  sub : Byte
  status : U16
  value : List Byte
deriving DecidableEq, Repr

/-- A response block on the wire: its fields, and the pad byte that follows a value of odd length, of any value
(30_encoding.md R92). -/
structure WireBlock where
  fields : BlockFields
  pad : Byte
deriving DecidableEq, Repr

/-- The wire bytes of a response block (30_encoding.md R92). -/
def WireBlock.bytes (b : WireBlock) : List Byte :=
  blockResp b.fields.opt b.fields.sub b.fields.status b.fields.value b.pad

/-- The response layout of a list of blocks, one after the other (43_iterator.md R175). -/
def layout (blocks : List WireBlock) : List Byte := blocks.flatMap WireBlock.bytes

/-- The fields a consumer reads for a parsed block, its value bytes taken from RXBUF (10_state.md R32). -/
def State.fieldsOf (s : State) (r : BlockRegs) : BlockFields :=
  { opt := r.opt, sub := r.sub, status := r.status, value := s.memRead .rx r.voff.toNat r.vlen.toNat }

end Sys2Proof.Machine
end

