-- ==== Sys2Proof/WellFormed.lean ====
section
/-! DEFINITION. Which terms of the syntax the spec gives a meaning. A command has no operand field, so every command
is well formed (30_encoding.md R84). A host operation is well formed when its operands lie in the ranges of
60_exceptions.md R205; the range of the TXBUF read depends on the state (TXLEN) and is tested where the
read is performed. -/

namespace Sys2Proof

/-- A command's well-formedness: there is no operand to check (30_encoding.md R80, R84). -/
def Instr.wellFormed (_ : Instr) : Bool := true

/-- A register write's value has the register's width (60_exceptions.md R205; log 10). A reserved number has no width: a
write to it has no effect whatever the value (10_state.md R22; log 11). -/
def wellFormedWrite (r : Byte) (v : Nat) : Bool :=
  match Reg.ofNumber r with
  | none => true
  | some reg => decide (v < 2 ^ reg.width)

/-- A host operation's operands lie in the ranges of 60_exceptions.md R205, as far as the operation alone tells. -/
def HostOp.wellFormed (P : Params) : HostOp → Bool
  | .writeReg r v => wellFormedWrite r v
  | .readReg _ => true
  | .writeVal a bytes => decide (a + bytes.length ≤ P.valCap)
  | .readTx _ _ => true
  | .readRx _ _ => false
  | .load frame => decide (frame.length ≤ P.rxCap)
  | .reset => true

end Sys2Proof
end

