-- ==== Sys2Proof/Certificates/Slice0/Obligations.lean ====
section
/-! DEFINITION. The statements for the provers. Each docstring names the rule of spec/ it formalises, or says that it
rests on a choice of the model. In a statement, `t = { s with … }` says the frame: every register, buffer and field not
named between the braces is unchanged (the model's own fields hostOps, reply and epoch included). -/

open Sys2Proof Sys2Proof.Machine

/-! ### Encoding, decoding and the step -/

/-- 30_encoding.md R82, R83: a byte decodes to a command exactly when it is that command's opcode. -/
def Obligations.DecodeInvertsEncode : Prop :=
  ∀ (c : Byte) (i : Instr), decode c = .ok i ↔ (i.wellFormed = true ∧ encode i = c)

/-- Words written out from 30_encoding.md R82, one or more of each sub-block, decode to their commands. -/
def Obligations.WrittenWordsDecode : Prop :=
  decodeTableWord 8 0b00000000 = some .nop ∧ decodeTableWord 8 0b00000001 = some .u16enc ∧
    decodeTableWord 8 0b00000111 = some .rxrd32 ∧ decodeTableWord 8 0b00010000 = some .txbuild ∧
    decodeTableWord 8 0b00100010 = some .validate ∧ decodeTableWord 8 0b00110011 = some .classify ∧
    decodeTableWord 8 0b00001000 = none

/-- A step runs the decoded command: where the host's next operation is a write of `c` to CMD and `c` decodes to `i`, the
step is `exec i` in the state where CMD holds `c` and that operation has left the host's list. The list and the reply
are the model's own (log 1, log 2). -/
def Obligations.StepRunsDecodedCommand : Prop :=
  ∀ (s : State) (c : Byte) (i : Instr) (rest : List HostOp), decode c = .ok i → i.wellFormed = true →
    s.hostOps = .writeReg 0x00#8 c.toNat :: rest →
      step s = exec i { s with hostOps := rest, reply := .nothing, cmd := c }

/-- Without a host operation the step changes nothing (60_exceptions.md R202; the list is the model's own: log 1, log 13);
with one, it performs the first. -/
def Obligations.StepPerformsNextHostOperation : Prop :=
  ∀ s : State, (s.hostOps = [] → step s = .next s) ∧
    ∀ op rest, s.hostOps = op :: rest → step s = hostStep op { s with hostOps := rest, reply := .nothing }

/-- 60_exceptions.md R194: an illegal opcode is stored in CMD, sets ERR to E_ILLEGAL_CMD, and writes nothing else. -/
def Obligations.IllegalOpcodeSetsErrOnly : Prop :=
  ∀ (s : State) (c : Nat),
    (0x08 ≤ c ∧ c ≤ 0x0F) ∨ (0x11 ≤ c ∧ c ≤ 0x1F) ∨ (0x23 ≤ c ∧ c ≤ 0x2F) ∨ (0x34 ≤ c ∧ c ≤ 0xFF) →
      hostStep (.writeReg 0x00#8 c) s = .next { s with cmd := BitVec.ofNat 8 c, err := .illegalCmd } ∧
        ErrCode.illegalCmd.code = 0x01#8

/-! ### Integer codec -/

/-- 40_int_codec.md R110: NOP clears ERR and changes nothing else. -/
def Obligations.NopClearsErrOnly : Prop :=
  encode .nop = 0x00#8 ∧ ∀ s : State, ∃ t, exec .nop s = .next t ∧ t.err.code = 0x00#8 ∧ t = { s with err := t.err }

/-- 40_int_codec.md R115: U16ENC writes ARG[15:8] and ARG[7:0] to BYTE0 and BYTE1. -/
def Obligations.U16encWritesHighByteFirst : Prop :=
  encode .u16enc = 0x01#8 ∧ ∀ s : State, ∃ t, exec .u16enc s = .next t ∧
    t.byte0.toNat = s.arg.toNat / 256 % 256 ∧ t.byte1.toNat = s.arg.toNat % 256 ∧
    t = { s with byte0 := t.byte0, byte1 := t.byte1, err := .ok }

/-- 40_int_codec.md R116: U16DEC gives RES = BYTE0*256 + BYTE1. -/
def Obligations.U16decReadsHighByteFirst : Prop :=
  encode .u16dec = 0x02#8 ∧ ∀ s : State, ∃ t, exec .u16dec s = .next t ∧
    t.res.toNat = 256 * s.byte0.toNat + s.byte1.toNat ∧ t = { s with res := t.res, err := .ok }

/-- 40_int_codec.md R117: U32ENC writes ARG's four bytes, the most significant first. -/
def Obligations.U32encWritesHighByteFirst : Prop :=
  encode .u32enc = 0x03#8 ∧ ∀ s : State, ∃ t, exec .u32enc s = .next t ∧
    t.byte0.toNat = s.arg.toNat / 2 ^ 24 ∧ t.byte1.toNat = s.arg.toNat / 2 ^ 16 % 256 ∧
    t.byte2.toNat = s.arg.toNat / 2 ^ 8 % 256 ∧ t.byte3.toNat = s.arg.toNat % 256 ∧
    t = { s with byte0 := t.byte0, byte1 := t.byte1, byte2 := t.byte2, byte3 := t.byte3, err := .ok }

/-- 40_int_codec.md R118: U32DEC gives RES the window's four bytes, the first most significant, and U32ENC followed by
U32DEC leaves RES = ARG. -/
def Obligations.U32decReadsHighByteFirst : Prop :=
  encode .u32dec = 0x04#8 ∧ (∀ s : State, ∃ t, exec .u32dec s = .next t ∧
    t.res.toNat = 2 ^ 24 * s.byte0.toNat + 2 ^ 16 * s.byte1.toNat + 2 ^ 8 * s.byte2.toNat + s.byte3.toNat ∧
    t = { s with res := t.res, err := .ok }) ∧
  ∀ s : State, ∃ t u, exec .u32enc s = .next t ∧ exec .u32dec t = .next u ∧ u.res = s.arg

/-- 40_int_codec.md R119, R120, R121: RXRD8, RXRD16 and RXRD32 read the big-endian value at RXBUF[ARG] where its bytes
are among the RXLEN valid bytes; otherwise they raise E_RX_OOB and write ERR only. ARG + n is not cut to 32 bits. -/
def Obligations.RxReadsAreBoundedAndBigEndian : Prop :=
  encode .rxrd8 = 0x05#8 ∧ encode .rxrd16 = 0x06#8 ∧ encode .rxrd32 = 0x07#8 ∧ ErrCode.rxOob.code = 0x25#8 ∧
  ∀ s : State,
    (s.arg.toNat + 1 ≤ s.rxLen.toNat → ∃ t, exec .rxrd8 s = .next t ∧
      t.res.toNat = (s.rxByte s.arg.toNat).toNat ∧ t = { s with res := t.res, err := .ok }) ∧
    (s.arg.toNat + 2 ≤ s.rxLen.toNat → ∃ t, exec .rxrd16 s = .next t ∧
      t.res.toNat = 256 * (s.rxByte s.arg.toNat).toNat + (s.rxByte (s.arg.toNat + 1)).toNat ∧
      t = { s with res := t.res, err := .ok }) ∧
    (s.arg.toNat + 4 ≤ s.rxLen.toNat → ∃ t, exec .rxrd32 s = .next t ∧
      t.res.toNat = 2 ^ 24 * (s.rxByte s.arg.toNat).toNat + 2 ^ 16 * (s.rxByte (s.arg.toNat + 1)).toNat +
        2 ^ 8 * (s.rxByte (s.arg.toNat + 2)).toNat + (s.rxByte (s.arg.toNat + 3)).toNat ∧
      t = { s with res := t.res, err := .ok }) ∧
    (s.rxLen.toNat < s.arg.toNat + 1 → exec .rxrd8 s = .next { s with err := .rxOob }) ∧
    (s.rxLen.toNat < s.arg.toNat + 2 → exec .rxrd16 s = .next { s with err := .rxOob }) ∧
    (s.rxLen.toNat < s.arg.toNat + 4 → exec .rxrd32 s = .next { s with err := .rxOob })

/-- 40_int_codec.md R122: the codec laws; be16, be32 and their decoders are exact inverses, and a u32 is its two u16
halves, high half first. -/
def Obligations.CodecFunctionsAreInverse : Prop :=
  (∀ v : U16, rd16 (byteView (be16 v)) 0 = v) ∧
  (∀ (S : Nat → Byte) (i : Nat), be16 (rd16 S i) = [S i, S (i + 1)]) ∧
  (∀ v : U32, rd32 (byteView (be32 v)) 0 = v) ∧
  (∀ (S : Nat → Byte) (i : Nat), be32 (rd32 S i) = [S i, S (i + 1), S (i + 2), S (i + 3)]) ∧
  ∀ (S : Nat → Byte) (i : Nat), (rd32 S i).toNat = 65536 * (rd16 S i).toNat + (rd16 S (i + 2)).toNat

/-- 20_memory.md R64: a hardware address register stands for six wire bytes, first byte first, and back. -/
def Obligations.AddressCodecIsExact : Prop :=
  (∀ v : Addr48, (mac v).map BitVec.toNat = [v.toNat / 2 ^ 40, v.toNat / 2 ^ 32 % 256, v.toNat / 2 ^ 24 % 256,
    v.toNat / 2 ^ 16 % 256, v.toNat / 2 ^ 8 % 256, v.toNat % 256] ∧ rdmac (byteView (mac v)) 0 = v) ∧
  (∀ (S : Nat → Byte) (i : Nat), (rdmac S i).toNat = 2 ^ 40 * (S i).toNat + 2 ^ 32 * (S (i + 1)).toNat +
    2 ^ 24 * (S (i + 2)).toNat + 2 ^ 16 * (S (i + 3)).toNat + 2 ^ 8 * (S (i + 4)).toNat + (S (i + 5)).toNat) ∧
  mac 0x010ECF000000#48 = [0x01#8, 0x0E#8, 0xCF#8, 0x00#8, 0x00#8, 0x00#8]

/-! ### Block codec -/

/-- 41_block_codec.md R132 and the consumed span of R131: the parser's checks in their written order, and the block
record, on the payload view with its RX_PAVAIL valid bytes. `len` below is the big-endian u16 at p + 2. -/
def Obligations.BlockParserChecksAndFields : Prop :=
  ∀ (s : State) (p : Nat),
    let avail := s.rxPavail.toNat
    let len := 256 * (s.rxByte (26 + p + 2)).toNat + (s.rxByte (26 + p + 3)).toNat
    (avail < p + 4 → s.blockAt p = .error .blkHdrTrunc) ∧
    (p + 4 ≤ avail → len < 2 → s.blockAt p = .error .blkLenSmall) ∧
    (p + 4 ≤ avail → 2 ≤ len → avail < p + 4 + len → s.blockAt p = .error .blkValTrunc) ∧
    (2 ≤ len → p + 4 + len ≤ avail → 26 + avail < 2 ^ 32 → ∃ r, s.blockAt p = .ok r ∧
      r.opt = s.rxByte (26 + p) ∧ r.sub = s.rxByte (26 + p + 1) ∧ r.len.toNat = len ∧
      r.status.toNat = 256 * (s.rxByte (26 + p + 4)).toNat + (s.rxByte (26 + p + 5)).toNat ∧
      r.poff.toNat = p ∧ r.voff.toNat = 26 + p + 6 ∧ r.vlen.toNat = len - 2 ∧ r.pad.toNat = len % 2 ∧
      r.cons.toNat = len + len % 2 + 4 ∧ r.cons.toNat % 2 = 0 ∧ 6 ≤ r.cons.toNat ∧ r.cons.toNat ≤ 65540) ∧
    ErrCode.blkHdrTrunc.code = 0x20#8 ∧ ErrCode.blkLenSmall.code = 0x21#8 ∧ ErrCode.blkValTrunc.code = 0x22#8

/-- 41_block_codec.md R133: BLKDEC writes the BLK_ registers and RES from the block at payload offset ARG; on every error
path only ERR is written. The payload view must lie in the valid bytes (20_memory.md R66; log 7). -/
def Obligations.BlkdecParsesBlockAtArg : Prop :=
  encode .blkdec = 0x30#8 ∧ ∀ s : State,
    (s.rxStage ≠ .pktOk → exec .blkdec s = .next { s with err := .sequence }) ∧
    (s.rxStage = .pktOk → 26 + s.rxPavail.toNat ≤ s.rxLen.toNat →
      (∀ e, s.blockAt s.arg.toNat = .error e → exec .blkdec s = .next { s with err := e }) ∧
      ∀ r, s.blockAt s.arg.toNat = .ok r → ∃ t, exec .blkdec s = .next t ∧ t.blk = r ∧
        t.res.toNat = r.cons.toNat ∧ t = { s with blk := t.blk, res := t.res, err := .ok })

/-- 41_block_codec.md R134: the parser on the response layout of a block recovers option, suboption, status and value
exactly, and an odd value's block-request has even length. R134's layout has the pad byte 0x00; here it has any value
(30_encoding.md R92). -/
def Obligations.ParserRecoversResponseLayout : Prop :=
  ∀ (o u : Byte) (status : U16) (V : List Byte) (pad : Byte), V.length ≤ 65533 →
    (∃ r, blockAtView (byteView (blockResp o u status V pad)) (blockResp o u status V pad).length 0 = .ok r ∧
      r.opt = o ∧ r.sub = u ∧ r.status = status ∧ r.voff.toNat = 26 + 6 ∧
      (List.range r.vlen.toNat).map (fun i => byteView (blockResp o u status V pad) (6 + i)) = V) ∧
    (V.length % 2 = 1 → (blockReq o u V).length % 2 = 0)

/-! ### Frame codec -/

/-- 42_frame_codec.md R150: TXBUILD under any parameters of 00_scope.md R6. The checks in their written order, each
writing ERR only; on success TXBUF holds the Ethernet header, the packet header with the recomputed length, the one
block-request and the zero trailer, TXBUF bytes above are not written, and TXLEN = RES = total. The machine's TXBUILD is
this one under its own parameters. -/
def Obligations.TxbuildUnderAnyParameters : Prop :=
  encode .txbuild = 0x10#8 ∧ (∀ s, exec .txbuild s = txbuild Config.params s) ∧
  ∀ (P : Params) (s : State), P.ok →
    let n := s.valLen.toNat
    let plen := 4 + n + n % 2
    let total := max (26 + plen) P.txMinFrameLen
    let frame := mac s.txDst ++ mac s.txSrc ++ [0x88#8, 0x92#8] ++
      be16 s.txFrameId ++ [s.txServiceId] ++ [s.txServiceType] ++ be32 s.txXid ++ be16 s.txDelay ++
      be16 (BitVec.ofNat 16 plen) ++ [s.txOpt, s.txSub] ++ be16 s.valLen ++
      (List.range n).map (fun i => s.valByte i) ++ List.replicate (n % 2) 0x00#8 ++
      List.replicate (total - (26 + plen)) 0x00#8
    (P.valCap < n → txbuild P s = .next { s with err := .valRange }) ∧
    (n ≤ P.valCap → 65531 ≤ n → txbuild P s = .next { s with err := .payloadTooLong }) ∧
    (n ≤ P.valCap → n < 65531 → P.txCap < total → txbuild P s = .next { s with err := .txOverflow }) ∧
    (n ≤ P.valCap → n < 65531 → total ≤ P.txCap → ∃ t, txbuild P s = .next t ∧
      t.txLen.toNat = total ∧ t.res = t.txLen ∧ frame.length = total ∧
      (∀ a, t.txByte a = if a < total then byteView frame a else s.txByte a) ∧
      t = { s with txBuf := t.txBuf, txLen := t.txLen, res := t.res, err := .ok }) ∧
    ErrCode.valRange.code = 0x32#8 ∧ ErrCode.payloadTooLong.code = 0x30#8 ∧ ErrCode.txOverflow.code = 0x31#8

/-- 42_frame_codec.md R150 on the machine, whose TX_MIN_FRAME_LEN is 0 (00_scope.md R6; log 4): where the value and the
frame fit their buffers, TXBUILD completes and its bytes above the frame stay. -/
def Obligations.TxbuildCompletes : Prop :=
  ∀ s : State, s.valLen.toNat ≤ Config.params.valCap → s.valLen.toNat < 65531 →
    30 + s.valLen.toNat + s.valLen.toNat % 2 ≤ Config.params.txCap →
    ∃ t, exec .txbuild s = .next t ∧ t.err = .ok ∧
      t.txLen.toNat = 30 + s.valLen.toNat + s.valLen.toNat % 2 ∧ t.res = t.txLen ∧
      (∀ a, t.txLen.toNat ≤ a → t.txByte a = s.txByte a) ∧
      (∀ i, i < s.valLen.toNat → t.txByte (30 + i) = s.valByte i) ∧
      t = { s with txBuf := t.txBuf, txLen := t.txLen, res := t.res, err := .ok }

/-- 42_frame_codec.md R151: ETHDEC drops any earlier decode on every path, then reports a short frame, a foreign
ethertype (with the addresses and ethertype written), or the decoded envelope. -/
def Obligations.EthdecDecodesEnvelope : Prop :=
  encode .ethdec = 0x20#8 ∧ ErrCode.frameShort.code = 0x10#8 ∧ ErrCode.etherType.code = 0x11#8 ∧ ∀ s : State,
    let etype := 256 * (s.rxByte 12).toNat + (s.rxByte 13).toNat
    (s.rxLen.toNat < 14 → exec .ethdec s =
      .next { s with rxStage := .none, rxValid := 0, itState := .idle, kind := .none, err := .frameShort }) ∧
    (14 ≤ s.rxLen.toNat → ∃ t, exec .ethdec s = .next t ∧
      t.rxDst.toNat = 2 ^ 40 * (s.rxByte 0).toNat + 2 ^ 32 * (s.rxByte 1).toNat + 2 ^ 24 * (s.rxByte 2).toNat +
        2 ^ 16 * (s.rxByte 3).toNat + 2 ^ 8 * (s.rxByte 4).toNat + (s.rxByte 5).toNat ∧
      t.rxSrc.toNat = 2 ^ 40 * (s.rxByte 6).toNat + 2 ^ 32 * (s.rxByte 7).toNat + 2 ^ 24 * (s.rxByte 8).toNat +
        2 ^ 16 * (s.rxByte 9).toNat + 2 ^ 8 * (s.rxByte 10).toNat + (s.rxByte 11).toNat ∧
      t.rxEtype.toNat = etype ∧
      t.rxStage = (if etype = 0x8892 then .ethOk else .none) ∧
      t.err = (if etype = 0x8892 then .ok else .etherType) ∧
      t = { s with rxStage := t.rxStage, rxValid := 0, itState := .idle, kind := .none, rxDst := t.rxDst,
                   rxSrc := t.rxSrc, rxEtype := t.rxEtype, err := t.err })

/-- 42_frame_codec.md R152: PKTDEC needs a decoded envelope; it drops the walk and the classification, then reports a
short packet or the packet header's fields. -/
def Obligations.PktdecDecodesHeader : Prop :=
  encode .pktdec = 0x21#8 ∧ ErrCode.sequence.code = 0x02#8 ∧ ErrCode.pktShort.code = 0x12#8 ∧ ∀ s : State,
    (s.rxStage = .none → exec .pktdec s = .next { s with err := .sequence }) ∧
    (s.rxStage ≠ .none → s.rxLen.toNat < 26 → exec .pktdec s =
      .next { s with rxStage := .ethOk, rxValid := 0, itState := .idle, kind := .none, err := .pktShort }) ∧
    (s.rxStage ≠ .none → 26 ≤ s.rxLen.toNat → ∃ t, exec .pktdec s = .next t ∧
      t.rxFrameId.toNat = 256 * (s.rxByte 14).toNat + (s.rxByte 15).toNat ∧
      t.rxServiceId = s.rxByte 16 ∧ t.rxServiceType = s.rxByte 17 ∧
      t.rxXid.toNat = 2 ^ 24 * (s.rxByte 18).toNat + 2 ^ 16 * (s.rxByte 19).toNat +
        2 ^ 8 * (s.rxByte 20).toNat + (s.rxByte 21).toNat ∧
      t.rxDelay.toNat = 256 * (s.rxByte 22).toNat + (s.rxByte 23).toNat ∧
      t.rxPlen.toNat = 256 * (s.rxByte 24).toNat + (s.rxByte 25).toNat ∧
      t.rxPavail.toNat = s.rxLen.toNat - 26 ∧
      t.rxValid = (if (s.rxByte 17).toNat = 1 then 1#1 else 0#1) ∧
      t = { s with rxStage := .pktOk, rxValid := t.rxValid, itState := .idle, kind := .none,
                   rxFrameId := t.rxFrameId, rxServiceId := t.rxServiceId, rxServiceType := t.rxServiceType,
                   rxXid := t.rxXid, rxDelay := t.rxDelay, rxPlen := t.rxPlen, rxPavail := t.rxPavail,
                   err := .ok })

/-- 42_frame_codec.md R153: VALIDATE needs a decoded packet; RES is RX_VALID, and ERR says whether it is 1. Where RX_VALID
is the bit PKTDEC wrote for RX_SERVICE_TYPE (Inv.valid_bit; StepKeepsInvariant), that is: a response or not. -/
def Obligations.ValidateReportsValidity : Prop :=
  encode .validate = 0x22#8 ∧ ErrCode.notResponse.code = 0x13#8 ∧ ∀ s : State,
    (s.rxStage ≠ .pktOk → exec .validate s = .next { s with err := .sequence }) ∧
    (s.rxStage = .pktOk → ∃ t, exec .validate s = .next t ∧ t.res.toNat = s.rxValid.toNat ∧
      t.err = (if s.rxValid = 1#1 then .ok else .notResponse) ∧ t = { s with res := t.res, err := t.err } ∧
      (s.rxValid = (if s.rxServiceType = 1#8 then 1#1 else 0#1) →
        (s.rxServiceType = 1#8 → t.res.toNat = 1 ∧ t.err.code = 0x00#8) ∧
        (s.rxServiceType ≠ 1#8 → t.res.toNat = 0 ∧ t.err.code = 0x13#8)))

/-- 42_frame_codec.md R158: after ETHDEC, PKTDEC and VALIDATE of a frame, RES = 1 and ERR = 0 iff the service-type byte
is 1; otherwise RES = 0 and ERR = 0x13. -/
def Obligations.ValidateAcceptsServiceTypeOneOnly : Prop :=
  ∀ s : State, 26 ≤ s.rxLen.toNat → s.rxByte 12 = 0x88#8 → s.rxByte 13 = 0x92#8 →
    ∃ t u v, exec .ethdec s = .next t ∧ exec .pktdec t = .next u ∧ exec .validate u = .next v ∧
      (s.rxByte 17 = 1#8 → v.res = 1#32 ∧ v.err.code = 0x00#8) ∧
      (s.rxByte 17 ≠ 1#8 → v.res = 0#32 ∧ v.err.code = 0x13#8)

/-- 42_frame_codec.md R157: a frame TXBUILD built, loaded back, decodes to every field it was built from, with the payload
length recomputed; under any parameters of 00_scope.md R6. -/
def Obligations.BuiltFrameRoundTrips : Prop :=
  ∀ (P : Params) (s t : State), P.ok → txbuild P s = .next t → t.err = .ok → t.txLen.toNat ≤ P.rxCap →
    ∃ u v w, hostLoad P (t.memRead .tx 0 t.txLen.toNat) t = .next u ∧ exec .ethdec u = .next v ∧
      exec .pktdec v = .next w ∧ v.err = .ok ∧ w.err = .ok ∧
      w.rxDst = s.txDst ∧ w.rxSrc = s.txSrc ∧ w.rxEtype = 0x8892#16 ∧
      w.rxFrameId = s.txFrameId ∧ w.rxServiceId = s.txServiceId ∧ w.rxServiceType = s.txServiceType ∧
      w.rxXid = s.txXid ∧ w.rxDelay = s.txDelay ∧
      w.rxPlen.toNat = 4 + s.valLen.toNat + s.valLen.toNat % 2 ∧ w.rxPavail.toNat = t.txLen.toNat - 26

/-! ### Payload iterator and classification -/

/-- 43_iterator.md R171: ITSTART needs a decoded packet and starts the walk at its first block. -/
def Obligations.ItstartStartsWalk : Prop :=
  encode .itstart = 0x31#8 ∧ ∀ s : State,
    (s.rxStage ≠ .pktOk → exec .itstart s = .next { s with err := .sequence }) ∧
    (s.rxStage = .pktOk → ∃ t, exec .itstart s = .next t ∧ t.itCur.toNat = 0 ∧ t.itRem = s.rxPlen ∧
      t.itNblk.toNat = 0 ∧ t.itState.code = 1#3 ∧ t.res.toNat = 0 ∧ t.err = .ok ∧
      t = { s with itCur := t.itCur, itRem := t.itRem, itNblk := t.itNblk, itState := t.itState,
                   res := t.res, err := t.err })

/-- 43_iterator.md R172: one turn of the walk. Not started or in error: E_SEQUENCE; at most 6 bytes left: DONE; a block
that does not parse or overruns the declared length: ERROR with everything else kept; otherwise the block is yielded.
The bounds on IT_CUR + IT_REM and IT_NBLK are those 10_state.md R31 and R172 derive, and the payload view lies in the
valid bytes (20_memory.md R66; log 7, log 12); StepKeepsInvariant states them. -/
def Obligations.ItnextTakesOneTurn : Prop :=
  encode .itnext = 0x32#8 ∧ ErrCode.blkOverrun.code = 0x23#8 ∧ ∀ s : State,
    (s.itState = .idle ∨ s.itState = .error → exec .itnext s = .next { s with err := .sequence }) ∧
    (s.itState ≠ .idle → s.itState ≠ .error → s.itState = .done ∨ s.itRem.toNat ≤ 6 →
      exec .itnext s = .next { s with itState := .done, res := 0#32, err := .ok }) ∧
    (s.itState = .ready ∨ s.itState = .block → 6 < s.itRem.toNat → 26 + s.rxPavail.toNat ≤ s.rxLen.toNat →
      (∀ e, s.blockAt s.itCur.toNat = .error e → exec .itnext s = .next { s with itState := .error, err := e }) ∧
      ∀ r, s.blockAt s.itCur.toNat = .ok r →
        (s.itRem.toNat < r.cons.toNat → exec .itnext s = .next { s with itState := .error, err := .blkOverrun }) ∧
        (r.cons.toNat ≤ s.itRem.toNat → s.itCur.toNat + s.itRem.toNat ≤ 65535 → s.itNblk.toNat < 65535 →
          ∃ t, exec .itnext s = .next t ∧ t.blk = r ∧ t.itCur.toNat = s.itCur.toNat + r.cons.toNat ∧
            t.itRem.toNat = s.itRem.toNat - r.cons.toNat ∧ t.itNblk.toNat = s.itNblk.toNat + 1 ∧
            t.itState = .block ∧ t.res.toNat = 1 ∧ t.err = .ok ∧
            t = { s with blk := t.blk, itCur := t.itCur, itRem := t.itRem, itNblk := t.itNblk,
                         itState := t.itState, res := t.res, err := t.err }))

/-- 43_iterator.md R173: CLASSIFY under any parameters of 00_scope.md R6, with all its error paths. The machine's CLASSIFY
is this one under its own parameters. The payload view lies in the valid bytes (20_memory.md R66; log 7). -/
def Obligations.ClassifyUnderAnyParameters : Prop :=
  encode .classify = 0x33#8 ∧ ErrCode.ackOob.code = 0x24#8 ∧
  (∀ s, exec .classify s = classify Config.params s) ∧
  ∀ (P : Params) (s : State),
    (s.rxStage ≠ .pktOk → classify P s = .next { s with err := .sequence }) ∧
    (s.rxStage = .pktOk → s.rxPlen.toNat ≤ 6 →
      classify P s = .next { s with kind := .deviceData, ackStatus := 0#8, ackKnown := 0#1, res := 1#32,
                                    err := .ok }) ∧
    (s.rxStage = .pktOk → 6 < s.rxPlen.toNat → 26 + s.rxPavail.toNat ≤ s.rxLen.toNat →
      (∀ e, s.blockAt 0 = .error e → classify P s = .next { s with kind := .none, err := e }) ∧
      ∀ r, s.blockAt 0 = .ok r →
        (s.rxPlen.toNat < r.cons.toNat → classify P s = .next { s with kind := .none, err := .blkOverrun }) ∧
        (r.cons.toNat ≤ s.rxPlen.toNat → r.opt.toNat ≠ 5 →
          classify P s = .next { s with kind := .deviceData, ackStatus := 0#8, ackKnown := 0#1, res := 1#32,
                                        err := .ok }) ∧
        (r.cons.toNat ≤ s.rxPlen.toNat → r.opt.toNat = 5 → s.rxPavail.toNat ≤ P.ackStatusOffset →
          classify P s = .next { s with kind := .none, err := .ackOob }) ∧
        (r.cons.toNat ≤ s.rxPlen.toNat → r.opt.toNat = 5 → P.ackStatusOffset < s.rxPavail.toNat →
          ∃ t, classify P s = .next t ∧ t.kind = .ack ∧ t.ackStatus = s.rxByte (26 + P.ackStatusOffset) ∧
            t.ackKnown = (if t.ackStatus.toNat ≤ 6 then 1#1 else 0#1) ∧ t.res.toNat = 2 ∧ t.err = .ok ∧
            t = { s with kind := t.kind, ackStatus := t.ackStatus, ackKnown := t.ackKnown, res := t.res,
                         err := t.err }))

/-- 43_iterator.md R173 on the machine, whose ACK_STATUS_OFFSET is 6 (00_scope.md R6; log 4): a packet that declares no
first block, and a packet whose first block parses within the declared length, are classified; an acknowledgement's
status byte is the one at payload offset 6. The payload view lies in the valid bytes (20_memory.md R66; log 7). -/
def Obligations.ClassifyCompletes : Prop :=
  ∀ s : State, s.rxStage = .pktOk →
    (s.rxPlen.toNat ≤ 6 → ∃ t, exec .classify s = .next t ∧ t.kind.code = 1#2 ∧ t.res.toNat = 1 ∧ t.err = .ok) ∧
    (6 < s.rxPlen.toNat → 26 + s.rxPavail.toNat ≤ s.rxLen.toNat →
      ∀ r, s.blockAt 0 = .ok r → r.cons.toNat ≤ s.rxPlen.toNat →
        (r.opt = 5#8 → 6 < s.rxPavail.toNat → ∃ t, exec .classify s = .next t ∧ t.kind.code = 2#2 ∧
          t.res.toNat = 2 ∧ t.ackStatus = s.rxByte 32 ∧ t.err = .ok ∧
          t = { s with kind := t.kind, ackStatus := t.ackStatus, ackKnown := t.ackKnown, res := t.res,
                       err := t.err }) ∧
        (r.opt ≠ 5#8 → ∃ t, exec .classify s = .next t ∧ t.kind.code = 1#2 ∧ t.res.toNat = 1 ∧
          t.ackStatus = 0#8 ∧ t.ackKnown = 0#1 ∧ t.err = .ok ∧
          t = { s with kind := t.kind, ackStatus := t.ackStatus, ackKnown := t.ackKnown, res := t.res,
                       err := t.err }))

/-- 43_iterator.md R174, and the bound of R172: after ITSTART, at most RX_PLEN / 6 + 1 ITNEXTs yield exactly the blocks of
walk(), and the last one reports how the walk ended. The payload view lies in the valid bytes (20_memory.md R66; log
7). -/
def Obligations.IteratorAgreesWithWalk : Prop :=
  ∀ s : State, s.rxStage = .pktOk → 26 + s.rxPavail.toNat ≤ s.rxLen.toNat →
    ∃ t u, exec .itstart s = .next t ∧ hostWalk (s.rxPlen.toNat / 6 + 1) t = some (s.walk.1, u) ∧
      u.err = s.walk.2 ∧ u.itState = (if s.walk.2 = .ok then .done else .error) ∧
      u.itNblk.toNat = s.walk.1.length ∧ u.itCur.toNat = (s.walk.1.map fun r => r.cons.toNat).sum

/-- 43_iterator.md R175: a payload that is a sequence of well-formed response blocks is traversed whole, every block with
its own option, suboption, status and value, but for a last block without value bytes, which is not yielded
(90_conflicts.md C2). What is left of the declared length is 0, or 6 in that case. A pad byte has any value
(30_encoding.md R92). -/
def Obligations.WalkTraversesWellFormedBlocks : Prop :=
  ∀ (s : State) (blocks : List WireBlock), (layout blocks).length = s.rxPlen.toNat →
    s.rxPlen.toNat ≤ s.rxPavail.toNat →
    (∀ i < s.rxPlen.toNat, s.payloadByte i = byteView (layout blocks) i) →
    let yielded := if ∃ b ∈ blocks.getLast?, b.fields.value = [] then blocks.dropLast else blocks
    s.walk.2 = .ok ∧ s.walk.1.map s.fieldsOf = yielded.map WireBlock.fields ∧
      (s.walk.1.map fun r => r.cons.toNat).sum + (if yielded = blocks then 0 else 6) = s.rxPlen.toNat

/-- 42_frame_codec.md R159: PKTDEC, ITNEXT and CLASSIFY do not read the bytes after the declared payload: replacing them
by any others changes nothing but RXBUF itself. PKTDEC, which finds the declared length in the frame, reads the 26 header
bytes alone. ITNEXT's premise is the sum of 10_state.md R31 (StepKeepsInvariant). CLASSIFY's status byte is at the machine's ACK_STATUS_OFFSET, 6
(log 4). -/
def Obligations.TrailingBytesAreNotRead : Prop :=
  ∀ (s t : State) (m : Memory) (i : Instr), i = .pktdec ∨ i = .itnext ∨ i = .classify →
    (i = .itnext → s.itCur.toNat + s.itRem.toNat ≤ s.rxPlen.toNat) →
    (∀ a, a < 26 + (if i = .pktdec then 0 else s.rxPlen.toNat) →
      ({ s with rxBuf := m } : State).rxByte a = s.rxByte a) →
    exec i s = .next t → exec i { s with rxBuf := m } = .next { t with rxBuf := m }

/-! ### Whole-machine rules -/

/-- 10_state.md R24: ERR is not sticky and no command reads it: what a command does is the same whatever ERR held. -/
def Obligations.CommandsOverwriteErr : Prop :=
  ∀ (i : Instr) (s : State) (e : ErrCode), exec i { s with err := e } = exec i s

/-- 10_state.md R22, the column "written by commands", R25 for RES and R34 for the buffers: a command writes the registers
they give it and no other, and only VALIDATE writes RES beside an error code. -/
def Obligations.CommandsWriteOnlyTheirRegisters : Prop :=
  ∀ (i : Instr) (s t : State), exec i s = .next t →
    (t.cmd = s.cmd ∧ t.arg = s.arg ∧ t.txDst = s.txDst ∧ t.txSrc = s.txSrc ∧ t.txFrameId = s.txFrameId ∧
      t.txServiceId = s.txServiceId ∧ t.txServiceType = s.txServiceType ∧ t.txXid = s.txXid ∧
      t.txDelay = s.txDelay ∧ t.txOpt = s.txOpt ∧ t.txSub = s.txSub ∧ t.valLen = s.valLen ∧ t.rxLen = s.rxLen ∧
      t.rxBuf = s.rxBuf ∧ t.valBuf = s.valBuf) ∧
    (i = .nop ∨ i = .u16enc ∨ i = .u32enc ∨ i = .ethdec ∨ i = .pktdec → t.res = s.res) ∧
    (t.err ≠ .ok → i ≠ .validate → t.res = s.res) ∧
    (i ≠ .u16enc → i ≠ .u32enc → t.byte0 = s.byte0 ∧ t.byte1 = s.byte1) ∧
    (i ≠ .u32enc → t.byte2 = s.byte2 ∧ t.byte3 = s.byte3) ∧
    (i ≠ .txbuild → t.txLen = s.txLen ∧ t.txBuf = s.txBuf) ∧
    (i ≠ .ethdec → t.rxDst = s.rxDst ∧ t.rxSrc = s.rxSrc ∧ t.rxEtype = s.rxEtype) ∧
    (i ≠ .pktdec → t.rxFrameId = s.rxFrameId ∧ t.rxServiceId = s.rxServiceId ∧
      t.rxServiceType = s.rxServiceType ∧ t.rxXid = s.rxXid ∧ t.rxDelay = s.rxDelay ∧ t.rxPlen = s.rxPlen ∧
      t.rxPavail = s.rxPavail) ∧
    (i ≠ .ethdec → i ≠ .pktdec → t.rxStage = s.rxStage ∧ t.rxValid = s.rxValid) ∧
    (i ≠ .ethdec → i ≠ .pktdec → i ≠ .itstart → i ≠ .itnext → t.itState = s.itState) ∧
    (i ≠ .itstart → i ≠ .itnext → t.itCur = s.itCur ∧ t.itRem = s.itRem ∧ t.itNblk = s.itNblk) ∧
    (i ≠ .blkdec → i ≠ .itnext → t.blk = s.blk) ∧
    (i ≠ .ethdec → i ≠ .pktdec → i ≠ .classify → t.kind = s.kind) ∧
    (i ≠ .classify → t.ackStatus = s.ackStatus ∧ t.ackKnown = s.ackKnown)

/-- The model's invariant holds after reset: 10_state.md R35 and the facts R28 to R34 say of the registers. -/
def Obligations.ResetMeetsInvariant : Prop :=
  Inv Config.params State.reset

/-- Every step keeps the model's invariant, from every state that meets it: the bounds of RXLEN and TXLEN (10_state.md
R30, R34), what RX_STAGE, RX_VALID, IT_STATE, KIND and the BLK_ registers vouch for (R28 to R33), the walk's sum and
count (R31, 43_iterator.md R172), and the canonical form of the buffers (the model's: log 6). -/
def Obligations.StepKeepsInvariant : Prop :=
  ∀ s t : State, Inv Config.params s → step s = .next t → Inv Config.params t

/-- 20_memory.md R66, R71: no step from a state that meets the invariant reads outside the valid bytes of a buffer: it
never ends in the model's one fault (log 7). -/
def Obligations.InvariantStatesNeverFault : Prop :=
  ∀ s : State, Inv Config.params s → SafeStep s

/-- From a state that meets the invariant, every host operation in its range completes: it is neither refused nor a fault.
The ranges are those of 60_exceptions.md R205, the TXBUF read within TXLEN. Two of them rest on the model's reading of the
spec: the width of a written value for every named register (log 10), and the write of any value to a reserved number
(log 11). -/
def Obligations.HostOperationsInRangeComplete : Prop :=
  ∀ (s : State) (op : HostOp), Inv Config.params s → op.wellFormed Config.params = true →
    (∀ a n, op = .readTx a n → a + n ≤ s.txLen.toNat) →
      ∃ t, hostStep op s = .next t

/-- 10_state.md R35, 93_implementation_defined.md U1, U2: the unspecified power-on bytes reach no result of a command,
but for TXBUILD where the host left VALBUF bytes unwritten (70_reset_and_hazards.md R222). The draw is the model's free
value, selected by its own epoch counter (log 5). -/
def Obligations.PowerOnBytesStayHidden : Prop :=
  ∀ (s t : State) (i : Instr) (e : Nat), s.rxBuf.written s.rxLen.toNat →
    (i = .txbuild → s.valBuf.written s.valLen.toNat) →
    exec i s = .next t → exec i { s with epoch := e } = .next { t with epoch := e }

/-! ### The host's operations -/

/-- 10_state.md R22: a value of the register's width written to an RW register is read back, and nothing else changes: no
other register, no buffer, none of the model's own fields (log 1, log 2, log 5). -/
def Obligations.RwRegistersHoldWrittenValue : Prop :=
  ∀ (s : State) (r : Reg) (v : Nat), r.access = .readWrite → v < 2 ^ r.width →
    ∃ t, hostStep (.writeReg r.number v) s = .next t ∧ t.readReg r.number = v ∧
      (∀ n, n ≠ r.number → t.readReg n = s.readReg n) ∧
      t.rxBuf = s.rxBuf ∧ t.txBuf = s.txBuf ∧ t.valBuf = s.valBuf ∧
      t.epoch = s.epoch ∧ t.reply = s.reply ∧ t.hostOps = s.hostOps

/-- 10_state.md R22: a host write to a read-only register, of a value of its width, has no effect, and so has a write to a
reserved number; a reserved number reads 0; a read gives the host the register's value and changes nothing else, and
every value read fits the register's width. That a reserved number, which has no width, takes a value of any size is the
model's reading (log 11); the reply is the model's own field (log 2). -/
def Obligations.ReadOnlyAndReservedNumbers : Prop :=
  ∀ (s : State) (n : Byte),
    hostStep (.readReg n) s = .next { s with reply := .value (s.readReg n) } ∧
    (Reg.ofNumber n = none → s.readReg n = 0 ∧ ∀ v, hostStep (.writeReg n v) s = .next s) ∧
    ∀ r, Reg.ofNumber n = some r → r.number = n ∧ s.readReg n < 2 ^ r.width ∧
      (r.access = .readOnly → ∀ v < 2 ^ r.width, hostStep (.writeReg n v) s = .next s)

/-- 70_reset_and_hazards.md R220, 10_state.md R35: at reset every register number reads 0, and so it does in the state the
machine starts from; RX_STAGE is NONE, IT_STATE is IDLE, KIND is NONE and ERR is OK. -/
def Obligations.ResetClearsEveryRegister : Prop :=
  (∀ n, State.reset.readReg n = 0) ∧ ∀ s : State, ∃ t, hostStep .reset s = .next t ∧
    (∀ n, t.readReg n = 0) ∧ t.rxStage = .none ∧ t.itState = .idle ∧ t.kind = .none ∧ t.err = .ok

/-- 60_exceptions.md R206: a frame load of at most RX_CAP bytes writes the frame and its length, invalidates every decode,
and changes nothing else; bytes above the frame keep their values. The machine's load is this one under its own
parameters. -/
def Obligations.FrameLoadInvalidatesDecode : Prop :=
  (∀ F s, hostStep (.load F) s = hostLoad Config.params F s) ∧
  ∀ (P : Params) (F : List Byte) (s : State), P.ok → F.length ≤ P.rxCap →
    ∃ t, hostLoad P F s = .next t ∧ t.rxLen.toNat = F.length ∧
      (∀ a, t.rxByte a = if a < F.length then byteView F a else s.rxByte a) ∧
      t = { s with rxBuf := t.rxBuf, rxLen := t.rxLen, rxStage := .none, rxValid := 0#1, itState := .idle,
                   kind := .none }

/-- 60_exceptions.md R205, the rows VALBUF write and TXBUF read: a VALBUF write in range stores the bytes and nothing
else; a TXBUF read in range gives the host the bytes and changes nothing else (the reply is the model's own field: log
2). The last clause is the host's read of a byte of RXBUF, which 10_state.md R32 and 70_reset_and_hazards.md R225 speak of:
`WR ARG, a`; RXRD8; a read of RES (40_int_codec.md R119; log 9). -/
def Obligations.HostBufferAccesses : Prop :=
  (∀ a bytes s, hostStep (.writeVal a bytes) s = hostWriteVal Config.params a bytes s) ∧
  (∀ (P : Params) (a : Nat) (bytes : List Byte) (s : State), a + bytes.length ≤ P.valCap →
    ∃ t, hostWriteVal P a bytes s = .next t ∧
      (∀ x, t.valByte x = if a ≤ x ∧ x < a + bytes.length then byteView bytes (x - a) else s.valByte x) ∧
      t = { s with valBuf := t.valBuf }) ∧
  (∀ (s : State) (a n : Nat), a + n ≤ s.txLen.toNat →
    ∃ l, hostStep (.readTx a n) s = .next { s with reply := .bytes l } ∧ l.length = n ∧
      ∀ i < n, byteView l i = s.txByte (a + i)) ∧
  ∀ (s : State) (a : Nat), a < s.rxLen.toNat →
    ∃ t, hostRun (readRxByteOps a) s = .next t ∧ t.reply = .value (s.rxByte a).toNat ∧ t.arg.toNat = a ∧
      t.res.toNat = (s.rxByte a).toNat ∧
      t = { s with cmd := 0x05#8, arg := t.arg, res := t.res, err := .ok, reply := t.reply }

/-- 93_implementation_defined.md U12, 92_eei_decisions.md D23: an oversize frame load, a VALBUF write past VAL_CAP and a
buffer read outside its valid length have no step: they are refused. So are a write of a value wider than the register it
names, and a direct read of RXBUF, for which the table of 60_exceptions.md R205 has no row (log 10, log 9). -/
def Obligations.HostOperationsOutOfRangeAreRefused : Prop :=
  (∀ (P : Params) (F : List Byte) (s : State), P.rxCap < F.length → ∃ e, hostLoad P F s = .refused e) ∧
  (∀ (P : Params) (a : Nat) (bytes : List Byte) (s : State), P.valCap < a + bytes.length →
    ∃ e, hostWriteVal P a bytes s = .refused e) ∧
  (∀ (s : State) (a n : Nat), s.txLen.toNat < a + n → ∃ e, hostStep (.readTx a n) s = .refused e) ∧
  (∀ (s : State) (a n : Nat), ∃ e, hostStep (.readRx a n) s = .refused e) ∧
  ∀ (s : State) (r : Reg) (v : Nat), 2 ^ r.width ≤ v → ∃ e, hostStep (.writeReg r.number v) s = .refused e

/-- 43_iterator.md R177: no error of an earlier command or frame reaches the next frame: after a load of any length, ETHDEC
and PKTDEC give the same outcome, the same stage and the same header registers they write, whatever the state before the
load was. -/
def Obligations.NextFrameDecodesIndependently : Prop :=
  ∀ (P : Params) (F : List Byte) (s s' u u' : State), P.ok →
    hostLoad P F s = .next u → hostLoad P F s' = .next u' →
    ∃ v v' w w', exec .ethdec u = .next v ∧ exec .ethdec u' = .next v' ∧ v.err = v'.err ∧
      v.rxStage = v'.rxStage ∧ v.rxValid = v'.rxValid ∧ v.itState = v'.itState ∧ v.kind = v'.kind ∧
      (14 ≤ F.length → v.rxDst = v'.rxDst ∧ v.rxSrc = v'.rxSrc ∧ v.rxEtype = v'.rxEtype) ∧
      exec .pktdec v = .next w ∧ exec .pktdec v' = .next w' ∧ w.err = w'.err ∧ w.rxStage = w'.rxStage ∧
      w.rxValid = w'.rxValid ∧ w.itState = w'.itState ∧ w.kind = w'.kind ∧
      (w.err = .ok → w.rxFrameId = w'.rxFrameId ∧ w.rxServiceId = w'.rxServiceId ∧
        w.rxServiceType = w'.rxServiceType ∧ w.rxXid = w'.rxXid ∧ w.rxDelay = w'.rxDelay ∧
        w.rxPlen = w'.rxPlen ∧ w.rxPavail = w'.rxPavail)

/-- 30_encoding.md R85, the pseudo-command RXHDR: ETHDEC, PKTDEC, VALIDATE, stopping after the first that leaves ERR
different from 0x00; CMD tells how far it went. -/
def Obligations.RxhdrStopsAtFirstError : Prop :=
  ∀ s : State,
    (s.rxLen.toNat < 14 → ∃ t, rxHdr s = .next t ∧ t.cmd = 0x20#8 ∧ t.err = .frameShort) ∧
    (14 ≤ s.rxLen.toNat → ¬ (s.rxByte 12 = 0x88#8 ∧ s.rxByte 13 = 0x92#8) →
      ∃ t, rxHdr s = .next t ∧ t.cmd = 0x20#8 ∧ t.err = .etherType) ∧
    (14 ≤ s.rxLen.toNat → s.rxLen.toNat < 26 → s.rxByte 12 = 0x88#8 → s.rxByte 13 = 0x92#8 →
      ∃ t, rxHdr s = .next t ∧ t.cmd = 0x21#8 ∧ t.err = .pktShort) ∧
    (26 ≤ s.rxLen.toNat → s.rxByte 12 = 0x88#8 → s.rxByte 13 = 0x92#8 → ∃ t, rxHdr s = .next t ∧
      t.cmd = 0x22#8 ∧ t.rxStage = .pktOk ∧ t.err = (if s.rxByte 17 = 1#8 then .ok else .notResponse))
end

