-- ==== Sys2Proof/Laws/State.lean ====
section
/-! SUPPORT. One lemma per field per named update of the state, so that no proof unfolds a record update. -/

namespace Sys2Proof.Machine

open Sys2Proof

/-- `raise E` writes ERR and nothing else (60_exceptions.md R191). -/
@[simp] theorem State.raise_eq_setErr (s : State) (e : ErrCode) : s.raise e = s.setErr e := rfl

/-- A command that succeeds writes ERR <- 0x00 (10_state.md R24). -/
@[simp] theorem State.succeed_eq_setErr (s : State) : s.succeed = s.setErr .ok := rfl

/-- ERR is not sticky: the later write stands (10_state.md R24). -/
@[simp] theorem State.setErr_setErr (s : State) (e f : ErrCode) : (s.setErr e).setErr f = s.setErr f := rfl

@[simp] theorem State.buf_rx (s : State) : s.buf .rx = s.rxBuf := rfl
@[simp] theorem State.buf_tx (s : State) : s.buf .tx = s.txBuf := rfl
@[simp] theorem State.buf_val (s : State) : s.buf .val = s.valBuf := rfl

/-! ### setErr -/

section

variable (s : State) (e : ErrCode)

@[simp] theorem State.setErr_cmd : (s.setErr e).cmd = s.cmd := rfl
@[simp] theorem State.setErr_err : (s.setErr e).err = e := rfl
@[simp] theorem State.setErr_arg : (s.setErr e).arg = s.arg := rfl
@[simp] theorem State.setErr_res : (s.setErr e).res = s.res := rfl
@[simp] theorem State.setErr_byte0 : (s.setErr e).byte0 = s.byte0 := rfl
@[simp] theorem State.setErr_byte1 : (s.setErr e).byte1 = s.byte1 := rfl
@[simp] theorem State.setErr_byte2 : (s.setErr e).byte2 = s.byte2 := rfl
@[simp] theorem State.setErr_byte3 : (s.setErr e).byte3 = s.byte3 := rfl
@[simp] theorem State.setErr_txDst : (s.setErr e).txDst = s.txDst := rfl
@[simp] theorem State.setErr_txSrc : (s.setErr e).txSrc = s.txSrc := rfl
@[simp] theorem State.setErr_txFrameId : (s.setErr e).txFrameId = s.txFrameId := rfl
@[simp] theorem State.setErr_txServiceId : (s.setErr e).txServiceId = s.txServiceId := rfl
@[simp] theorem State.setErr_txServiceType : (s.setErr e).txServiceType = s.txServiceType := rfl
@[simp] theorem State.setErr_txXid : (s.setErr e).txXid = s.txXid := rfl
@[simp] theorem State.setErr_txDelay : (s.setErr e).txDelay = s.txDelay := rfl
@[simp] theorem State.setErr_txOpt : (s.setErr e).txOpt = s.txOpt := rfl
@[simp] theorem State.setErr_txSub : (s.setErr e).txSub = s.txSub := rfl
@[simp] theorem State.setErr_valLen : (s.setErr e).valLen = s.valLen := rfl
@[simp] theorem State.setErr_txLen : (s.setErr e).txLen = s.txLen := rfl
@[simp] theorem State.setErr_rxLen : (s.setErr e).rxLen = s.rxLen := rfl
@[simp] theorem State.setErr_rxStage : (s.setErr e).rxStage = s.rxStage := rfl
@[simp] theorem State.setErr_rxDst : (s.setErr e).rxDst = s.rxDst := rfl
@[simp] theorem State.setErr_rxSrc : (s.setErr e).rxSrc = s.rxSrc := rfl
@[simp] theorem State.setErr_rxEtype : (s.setErr e).rxEtype = s.rxEtype := rfl
@[simp] theorem State.setErr_rxFrameId : (s.setErr e).rxFrameId = s.rxFrameId := rfl
@[simp] theorem State.setErr_rxServiceId : (s.setErr e).rxServiceId = s.rxServiceId := rfl
@[simp] theorem State.setErr_rxServiceType : (s.setErr e).rxServiceType = s.rxServiceType := rfl
@[simp] theorem State.setErr_rxXid : (s.setErr e).rxXid = s.rxXid := rfl
@[simp] theorem State.setErr_rxDelay : (s.setErr e).rxDelay = s.rxDelay := rfl
@[simp] theorem State.setErr_rxPlen : (s.setErr e).rxPlen = s.rxPlen := rfl
@[simp] theorem State.setErr_rxPavail : (s.setErr e).rxPavail = s.rxPavail := rfl
@[simp] theorem State.setErr_rxValid : (s.setErr e).rxValid = s.rxValid := rfl
@[simp] theorem State.setErr_itState : (s.setErr e).itState = s.itState := rfl
@[simp] theorem State.setErr_itCur : (s.setErr e).itCur = s.itCur := rfl
@[simp] theorem State.setErr_itRem : (s.setErr e).itRem = s.itRem := rfl
@[simp] theorem State.setErr_itNblk : (s.setErr e).itNblk = s.itNblk := rfl
@[simp] theorem State.setErr_blk : (s.setErr e).blk = s.blk := rfl
@[simp] theorem State.setErr_kind : (s.setErr e).kind = s.kind := rfl
@[simp] theorem State.setErr_ackStatus : (s.setErr e).ackStatus = s.ackStatus := rfl
@[simp] theorem State.setErr_ackKnown : (s.setErr e).ackKnown = s.ackKnown := rfl
@[simp] theorem State.setErr_rxBuf : (s.setErr e).rxBuf = s.rxBuf := rfl
@[simp] theorem State.setErr_txBuf : (s.setErr e).txBuf = s.txBuf := rfl
@[simp] theorem State.setErr_valBuf : (s.setErr e).valBuf = s.valBuf := rfl
@[simp] theorem State.setErr_hostOps : (s.setErr e).hostOps = s.hostOps := rfl
@[simp] theorem State.setErr_reply : (s.setErr e).reply = s.reply := rfl
@[simp] theorem State.setErr_epoch : (s.setErr e).epoch = s.epoch := rfl
@[simp] theorem State.setErr_buf (w : Buf) : (s.setErr e).buf w = s.buf w := by cases w <;> rfl
@[simp] theorem State.setErr_byteAt (w : Buf) (j : Nat) : (s.setErr e).byteAt w j = s.byteAt w j := by
  cases w <;> rfl
@[simp] theorem State.setErr_rxByte : (s.setErr e).rxByte = s.rxByte := rfl
@[simp] theorem State.setErr_txByte : (s.setErr e).txByte = s.txByte := rfl
@[simp] theorem State.setErr_valByte : (s.setErr e).valByte = s.valByte := rfl
@[simp] theorem State.setErr_payloadByte : (s.setErr e).payloadByte = s.payloadByte := rfl

end

/-! ### setRes -/

section

variable (s : State) (v : U32)

@[simp] theorem State.setRes_cmd : (s.setRes v).cmd = s.cmd := rfl
@[simp] theorem State.setRes_err : (s.setRes v).err = s.err := rfl
@[simp] theorem State.setRes_arg : (s.setRes v).arg = s.arg := rfl
@[simp] theorem State.setRes_res : (s.setRes v).res = v := rfl
@[simp] theorem State.setRes_byte0 : (s.setRes v).byte0 = s.byte0 := rfl
@[simp] theorem State.setRes_byte1 : (s.setRes v).byte1 = s.byte1 := rfl
@[simp] theorem State.setRes_byte2 : (s.setRes v).byte2 = s.byte2 := rfl
@[simp] theorem State.setRes_byte3 : (s.setRes v).byte3 = s.byte3 := rfl
@[simp] theorem State.setRes_txDst : (s.setRes v).txDst = s.txDst := rfl
@[simp] theorem State.setRes_txSrc : (s.setRes v).txSrc = s.txSrc := rfl
@[simp] theorem State.setRes_txFrameId : (s.setRes v).txFrameId = s.txFrameId := rfl
@[simp] theorem State.setRes_txServiceId : (s.setRes v).txServiceId = s.txServiceId := rfl
@[simp] theorem State.setRes_txServiceType : (s.setRes v).txServiceType = s.txServiceType := rfl
@[simp] theorem State.setRes_txXid : (s.setRes v).txXid = s.txXid := rfl
@[simp] theorem State.setRes_txDelay : (s.setRes v).txDelay = s.txDelay := rfl
@[simp] theorem State.setRes_txOpt : (s.setRes v).txOpt = s.txOpt := rfl
@[simp] theorem State.setRes_txSub : (s.setRes v).txSub = s.txSub := rfl
@[simp] theorem State.setRes_valLen : (s.setRes v).valLen = s.valLen := rfl
@[simp] theorem State.setRes_txLen : (s.setRes v).txLen = s.txLen := rfl
@[simp] theorem State.setRes_rxLen : (s.setRes v).rxLen = s.rxLen := rfl
@[simp] theorem State.setRes_rxStage : (s.setRes v).rxStage = s.rxStage := rfl
@[simp] theorem State.setRes_rxDst : (s.setRes v).rxDst = s.rxDst := rfl
@[simp] theorem State.setRes_rxSrc : (s.setRes v).rxSrc = s.rxSrc := rfl
@[simp] theorem State.setRes_rxEtype : (s.setRes v).rxEtype = s.rxEtype := rfl
@[simp] theorem State.setRes_rxFrameId : (s.setRes v).rxFrameId = s.rxFrameId := rfl
@[simp] theorem State.setRes_rxServiceId : (s.setRes v).rxServiceId = s.rxServiceId := rfl
@[simp] theorem State.setRes_rxServiceType : (s.setRes v).rxServiceType = s.rxServiceType := rfl
@[simp] theorem State.setRes_rxXid : (s.setRes v).rxXid = s.rxXid := rfl
@[simp] theorem State.setRes_rxDelay : (s.setRes v).rxDelay = s.rxDelay := rfl
@[simp] theorem State.setRes_rxPlen : (s.setRes v).rxPlen = s.rxPlen := rfl
@[simp] theorem State.setRes_rxPavail : (s.setRes v).rxPavail = s.rxPavail := rfl
@[simp] theorem State.setRes_rxValid : (s.setRes v).rxValid = s.rxValid := rfl
@[simp] theorem State.setRes_itState : (s.setRes v).itState = s.itState := rfl
@[simp] theorem State.setRes_itCur : (s.setRes v).itCur = s.itCur := rfl
@[simp] theorem State.setRes_itRem : (s.setRes v).itRem = s.itRem := rfl
@[simp] theorem State.setRes_itNblk : (s.setRes v).itNblk = s.itNblk := rfl
@[simp] theorem State.setRes_blk : (s.setRes v).blk = s.blk := rfl
@[simp] theorem State.setRes_kind : (s.setRes v).kind = s.kind := rfl
@[simp] theorem State.setRes_ackStatus : (s.setRes v).ackStatus = s.ackStatus := rfl
@[simp] theorem State.setRes_ackKnown : (s.setRes v).ackKnown = s.ackKnown := rfl
@[simp] theorem State.setRes_rxBuf : (s.setRes v).rxBuf = s.rxBuf := rfl
@[simp] theorem State.setRes_txBuf : (s.setRes v).txBuf = s.txBuf := rfl
@[simp] theorem State.setRes_valBuf : (s.setRes v).valBuf = s.valBuf := rfl
@[simp] theorem State.setRes_hostOps : (s.setRes v).hostOps = s.hostOps := rfl
@[simp] theorem State.setRes_reply : (s.setRes v).reply = s.reply := rfl
@[simp] theorem State.setRes_epoch : (s.setRes v).epoch = s.epoch := rfl
@[simp] theorem State.setRes_buf (w : Buf) : (s.setRes v).buf w = s.buf w := by cases w <;> rfl
@[simp] theorem State.setRes_byteAt (w : Buf) (j : Nat) : (s.setRes v).byteAt w j = s.byteAt w j := by
  cases w <;> rfl
@[simp] theorem State.setRes_rxByte : (s.setRes v).rxByte = s.rxByte := rfl
@[simp] theorem State.setRes_txByte : (s.setRes v).txByte = s.txByte := rfl
@[simp] theorem State.setRes_valByte : (s.setRes v).valByte = s.valByte := rfl
@[simp] theorem State.setRes_payloadByte : (s.setRes v).payloadByte = s.payloadByte := rfl

end

/-! ### setBlk -/

section

variable (s : State) (r : BlockRegs)

@[simp] theorem State.setBlk_cmd : (s.setBlk r).cmd = s.cmd := rfl
@[simp] theorem State.setBlk_err : (s.setBlk r).err = s.err := rfl
@[simp] theorem State.setBlk_arg : (s.setBlk r).arg = s.arg := rfl
@[simp] theorem State.setBlk_res : (s.setBlk r).res = s.res := rfl
@[simp] theorem State.setBlk_byte0 : (s.setBlk r).byte0 = s.byte0 := rfl
@[simp] theorem State.setBlk_byte1 : (s.setBlk r).byte1 = s.byte1 := rfl
@[simp] theorem State.setBlk_byte2 : (s.setBlk r).byte2 = s.byte2 := rfl
@[simp] theorem State.setBlk_byte3 : (s.setBlk r).byte3 = s.byte3 := rfl
@[simp] theorem State.setBlk_txDst : (s.setBlk r).txDst = s.txDst := rfl
@[simp] theorem State.setBlk_txSrc : (s.setBlk r).txSrc = s.txSrc := rfl
@[simp] theorem State.setBlk_txFrameId : (s.setBlk r).txFrameId = s.txFrameId := rfl
@[simp] theorem State.setBlk_txServiceId : (s.setBlk r).txServiceId = s.txServiceId := rfl
@[simp] theorem State.setBlk_txServiceType : (s.setBlk r).txServiceType = s.txServiceType := rfl
@[simp] theorem State.setBlk_txXid : (s.setBlk r).txXid = s.txXid := rfl
@[simp] theorem State.setBlk_txDelay : (s.setBlk r).txDelay = s.txDelay := rfl
@[simp] theorem State.setBlk_txOpt : (s.setBlk r).txOpt = s.txOpt := rfl
@[simp] theorem State.setBlk_txSub : (s.setBlk r).txSub = s.txSub := rfl
@[simp] theorem State.setBlk_valLen : (s.setBlk r).valLen = s.valLen := rfl
@[simp] theorem State.setBlk_txLen : (s.setBlk r).txLen = s.txLen := rfl
@[simp] theorem State.setBlk_rxLen : (s.setBlk r).rxLen = s.rxLen := rfl
@[simp] theorem State.setBlk_rxStage : (s.setBlk r).rxStage = s.rxStage := rfl
@[simp] theorem State.setBlk_rxDst : (s.setBlk r).rxDst = s.rxDst := rfl
@[simp] theorem State.setBlk_rxSrc : (s.setBlk r).rxSrc = s.rxSrc := rfl
@[simp] theorem State.setBlk_rxEtype : (s.setBlk r).rxEtype = s.rxEtype := rfl
@[simp] theorem State.setBlk_rxFrameId : (s.setBlk r).rxFrameId = s.rxFrameId := rfl
@[simp] theorem State.setBlk_rxServiceId : (s.setBlk r).rxServiceId = s.rxServiceId := rfl
@[simp] theorem State.setBlk_rxServiceType : (s.setBlk r).rxServiceType = s.rxServiceType := rfl
@[simp] theorem State.setBlk_rxXid : (s.setBlk r).rxXid = s.rxXid := rfl
@[simp] theorem State.setBlk_rxDelay : (s.setBlk r).rxDelay = s.rxDelay := rfl
@[simp] theorem State.setBlk_rxPlen : (s.setBlk r).rxPlen = s.rxPlen := rfl
@[simp] theorem State.setBlk_rxPavail : (s.setBlk r).rxPavail = s.rxPavail := rfl
@[simp] theorem State.setBlk_rxValid : (s.setBlk r).rxValid = s.rxValid := rfl
@[simp] theorem State.setBlk_itState : (s.setBlk r).itState = s.itState := rfl
@[simp] theorem State.setBlk_itCur : (s.setBlk r).itCur = s.itCur := rfl
@[simp] theorem State.setBlk_itRem : (s.setBlk r).itRem = s.itRem := rfl
@[simp] theorem State.setBlk_itNblk : (s.setBlk r).itNblk = s.itNblk := rfl
@[simp] theorem State.setBlk_blk : (s.setBlk r).blk = r := rfl
@[simp] theorem State.setBlk_kind : (s.setBlk r).kind = s.kind := rfl
@[simp] theorem State.setBlk_ackStatus : (s.setBlk r).ackStatus = s.ackStatus := rfl
@[simp] theorem State.setBlk_ackKnown : (s.setBlk r).ackKnown = s.ackKnown := rfl
@[simp] theorem State.setBlk_rxBuf : (s.setBlk r).rxBuf = s.rxBuf := rfl
@[simp] theorem State.setBlk_txBuf : (s.setBlk r).txBuf = s.txBuf := rfl
@[simp] theorem State.setBlk_valBuf : (s.setBlk r).valBuf = s.valBuf := rfl
@[simp] theorem State.setBlk_hostOps : (s.setBlk r).hostOps = s.hostOps := rfl
@[simp] theorem State.setBlk_reply : (s.setBlk r).reply = s.reply := rfl
@[simp] theorem State.setBlk_epoch : (s.setBlk r).epoch = s.epoch := rfl
@[simp] theorem State.setBlk_buf (w : Buf) : (s.setBlk r).buf w = s.buf w := by cases w <;> rfl
@[simp] theorem State.setBlk_byteAt (w : Buf) (j : Nat) : (s.setBlk r).byteAt w j = s.byteAt w j := by
  cases w <;> rfl
@[simp] theorem State.setBlk_rxByte : (s.setBlk r).rxByte = s.rxByte := rfl
@[simp] theorem State.setBlk_txByte : (s.setBlk r).txByte = s.txByte := rfl
@[simp] theorem State.setBlk_valByte : (s.setBlk r).valByte = s.valByte := rfl
@[simp] theorem State.setBlk_payloadByte : (s.setBlk r).payloadByte = s.payloadByte := rfl

end

/-! ### setStage -/

section

variable (s : State) (g : RxStage)

@[simp] theorem State.setStage_cmd : (s.setStage g).cmd = s.cmd := rfl
@[simp] theorem State.setStage_err : (s.setStage g).err = s.err := rfl
@[simp] theorem State.setStage_arg : (s.setStage g).arg = s.arg := rfl
@[simp] theorem State.setStage_res : (s.setStage g).res = s.res := rfl
@[simp] theorem State.setStage_byte0 : (s.setStage g).byte0 = s.byte0 := rfl
@[simp] theorem State.setStage_byte1 : (s.setStage g).byte1 = s.byte1 := rfl
@[simp] theorem State.setStage_byte2 : (s.setStage g).byte2 = s.byte2 := rfl
@[simp] theorem State.setStage_byte3 : (s.setStage g).byte3 = s.byte3 := rfl
@[simp] theorem State.setStage_txDst : (s.setStage g).txDst = s.txDst := rfl
@[simp] theorem State.setStage_txSrc : (s.setStage g).txSrc = s.txSrc := rfl
@[simp] theorem State.setStage_txFrameId : (s.setStage g).txFrameId = s.txFrameId := rfl
@[simp] theorem State.setStage_txServiceId : (s.setStage g).txServiceId = s.txServiceId := rfl
@[simp] theorem State.setStage_txServiceType : (s.setStage g).txServiceType = s.txServiceType := rfl
@[simp] theorem State.setStage_txXid : (s.setStage g).txXid = s.txXid := rfl
@[simp] theorem State.setStage_txDelay : (s.setStage g).txDelay = s.txDelay := rfl
@[simp] theorem State.setStage_txOpt : (s.setStage g).txOpt = s.txOpt := rfl
@[simp] theorem State.setStage_txSub : (s.setStage g).txSub = s.txSub := rfl
@[simp] theorem State.setStage_valLen : (s.setStage g).valLen = s.valLen := rfl
@[simp] theorem State.setStage_txLen : (s.setStage g).txLen = s.txLen := rfl
@[simp] theorem State.setStage_rxLen : (s.setStage g).rxLen = s.rxLen := rfl
@[simp] theorem State.setStage_rxStage : (s.setStage g).rxStage = g := rfl
@[simp] theorem State.setStage_rxDst : (s.setStage g).rxDst = s.rxDst := rfl
@[simp] theorem State.setStage_rxSrc : (s.setStage g).rxSrc = s.rxSrc := rfl
@[simp] theorem State.setStage_rxEtype : (s.setStage g).rxEtype = s.rxEtype := rfl
@[simp] theorem State.setStage_rxFrameId : (s.setStage g).rxFrameId = s.rxFrameId := rfl
@[simp] theorem State.setStage_rxServiceId : (s.setStage g).rxServiceId = s.rxServiceId := rfl
@[simp] theorem State.setStage_rxServiceType : (s.setStage g).rxServiceType = s.rxServiceType := rfl
@[simp] theorem State.setStage_rxXid : (s.setStage g).rxXid = s.rxXid := rfl
@[simp] theorem State.setStage_rxDelay : (s.setStage g).rxDelay = s.rxDelay := rfl
@[simp] theorem State.setStage_rxPlen : (s.setStage g).rxPlen = s.rxPlen := rfl
@[simp] theorem State.setStage_rxPavail : (s.setStage g).rxPavail = s.rxPavail := rfl
@[simp] theorem State.setStage_rxValid : (s.setStage g).rxValid = s.rxValid := rfl
@[simp] theorem State.setStage_itState : (s.setStage g).itState = s.itState := rfl
@[simp] theorem State.setStage_itCur : (s.setStage g).itCur = s.itCur := rfl
@[simp] theorem State.setStage_itRem : (s.setStage g).itRem = s.itRem := rfl
@[simp] theorem State.setStage_itNblk : (s.setStage g).itNblk = s.itNblk := rfl
@[simp] theorem State.setStage_blk : (s.setStage g).blk = s.blk := rfl
@[simp] theorem State.setStage_kind : (s.setStage g).kind = s.kind := rfl
@[simp] theorem State.setStage_ackStatus : (s.setStage g).ackStatus = s.ackStatus := rfl
@[simp] theorem State.setStage_ackKnown : (s.setStage g).ackKnown = s.ackKnown := rfl
@[simp] theorem State.setStage_rxBuf : (s.setStage g).rxBuf = s.rxBuf := rfl
@[simp] theorem State.setStage_txBuf : (s.setStage g).txBuf = s.txBuf := rfl
@[simp] theorem State.setStage_valBuf : (s.setStage g).valBuf = s.valBuf := rfl
@[simp] theorem State.setStage_hostOps : (s.setStage g).hostOps = s.hostOps := rfl
@[simp] theorem State.setStage_reply : (s.setStage g).reply = s.reply := rfl
@[simp] theorem State.setStage_epoch : (s.setStage g).epoch = s.epoch := rfl
@[simp] theorem State.setStage_buf (w : Buf) : (s.setStage g).buf w = s.buf w := by cases w <;> rfl
@[simp] theorem State.setStage_byteAt (w : Buf) (j : Nat) : (s.setStage g).byteAt w j = s.byteAt w j := by
  cases w <;> rfl
@[simp] theorem State.setStage_rxByte : (s.setStage g).rxByte = s.rxByte := rfl
@[simp] theorem State.setStage_txByte : (s.setStage g).txByte = s.txByte := rfl
@[simp] theorem State.setStage_valByte : (s.setStage g).valByte = s.valByte := rfl
@[simp] theorem State.setStage_payloadByte : (s.setStage g).payloadByte = s.payloadByte := rfl

end

/-! ### setItState -/

section

variable (s : State) (i : ItState)

@[simp] theorem State.setItState_cmd : (s.setItState i).cmd = s.cmd := rfl
@[simp] theorem State.setItState_err : (s.setItState i).err = s.err := rfl
@[simp] theorem State.setItState_arg : (s.setItState i).arg = s.arg := rfl
@[simp] theorem State.setItState_res : (s.setItState i).res = s.res := rfl
@[simp] theorem State.setItState_byte0 : (s.setItState i).byte0 = s.byte0 := rfl
@[simp] theorem State.setItState_byte1 : (s.setItState i).byte1 = s.byte1 := rfl
@[simp] theorem State.setItState_byte2 : (s.setItState i).byte2 = s.byte2 := rfl
@[simp] theorem State.setItState_byte3 : (s.setItState i).byte3 = s.byte3 := rfl
@[simp] theorem State.setItState_txDst : (s.setItState i).txDst = s.txDst := rfl
@[simp] theorem State.setItState_txSrc : (s.setItState i).txSrc = s.txSrc := rfl
@[simp] theorem State.setItState_txFrameId : (s.setItState i).txFrameId = s.txFrameId := rfl
@[simp] theorem State.setItState_txServiceId : (s.setItState i).txServiceId = s.txServiceId := rfl
@[simp] theorem State.setItState_txServiceType : (s.setItState i).txServiceType = s.txServiceType := rfl
@[simp] theorem State.setItState_txXid : (s.setItState i).txXid = s.txXid := rfl
@[simp] theorem State.setItState_txDelay : (s.setItState i).txDelay = s.txDelay := rfl
@[simp] theorem State.setItState_txOpt : (s.setItState i).txOpt = s.txOpt := rfl
@[simp] theorem State.setItState_txSub : (s.setItState i).txSub = s.txSub := rfl
@[simp] theorem State.setItState_valLen : (s.setItState i).valLen = s.valLen := rfl
@[simp] theorem State.setItState_txLen : (s.setItState i).txLen = s.txLen := rfl
@[simp] theorem State.setItState_rxLen : (s.setItState i).rxLen = s.rxLen := rfl
@[simp] theorem State.setItState_rxStage : (s.setItState i).rxStage = s.rxStage := rfl
@[simp] theorem State.setItState_rxDst : (s.setItState i).rxDst = s.rxDst := rfl
@[simp] theorem State.setItState_rxSrc : (s.setItState i).rxSrc = s.rxSrc := rfl
@[simp] theorem State.setItState_rxEtype : (s.setItState i).rxEtype = s.rxEtype := rfl
@[simp] theorem State.setItState_rxFrameId : (s.setItState i).rxFrameId = s.rxFrameId := rfl
@[simp] theorem State.setItState_rxServiceId : (s.setItState i).rxServiceId = s.rxServiceId := rfl
@[simp] theorem State.setItState_rxServiceType : (s.setItState i).rxServiceType = s.rxServiceType := rfl
@[simp] theorem State.setItState_rxXid : (s.setItState i).rxXid = s.rxXid := rfl
@[simp] theorem State.setItState_rxDelay : (s.setItState i).rxDelay = s.rxDelay := rfl
@[simp] theorem State.setItState_rxPlen : (s.setItState i).rxPlen = s.rxPlen := rfl
@[simp] theorem State.setItState_rxPavail : (s.setItState i).rxPavail = s.rxPavail := rfl
@[simp] theorem State.setItState_rxValid : (s.setItState i).rxValid = s.rxValid := rfl
@[simp] theorem State.setItState_itState : (s.setItState i).itState = i := rfl
@[simp] theorem State.setItState_itCur : (s.setItState i).itCur = s.itCur := rfl
@[simp] theorem State.setItState_itRem : (s.setItState i).itRem = s.itRem := rfl
@[simp] theorem State.setItState_itNblk : (s.setItState i).itNblk = s.itNblk := rfl
@[simp] theorem State.setItState_blk : (s.setItState i).blk = s.blk := rfl
@[simp] theorem State.setItState_kind : (s.setItState i).kind = s.kind := rfl
@[simp] theorem State.setItState_ackStatus : (s.setItState i).ackStatus = s.ackStatus := rfl
@[simp] theorem State.setItState_ackKnown : (s.setItState i).ackKnown = s.ackKnown := rfl
@[simp] theorem State.setItState_rxBuf : (s.setItState i).rxBuf = s.rxBuf := rfl
@[simp] theorem State.setItState_txBuf : (s.setItState i).txBuf = s.txBuf := rfl
@[simp] theorem State.setItState_valBuf : (s.setItState i).valBuf = s.valBuf := rfl
@[simp] theorem State.setItState_hostOps : (s.setItState i).hostOps = s.hostOps := rfl
@[simp] theorem State.setItState_reply : (s.setItState i).reply = s.reply := rfl
@[simp] theorem State.setItState_epoch : (s.setItState i).epoch = s.epoch := rfl
@[simp] theorem State.setItState_buf (w : Buf) : (s.setItState i).buf w = s.buf w := by cases w <;> rfl
@[simp] theorem State.setItState_byteAt (w : Buf) (j : Nat) : (s.setItState i).byteAt w j = s.byteAt w j := by
  cases w <;> rfl
@[simp] theorem State.setItState_rxByte : (s.setItState i).rxByte = s.rxByte := rfl
@[simp] theorem State.setItState_txByte : (s.setItState i).txByte = s.txByte := rfl
@[simp] theorem State.setItState_valByte : (s.setItState i).valByte = s.valByte := rfl
@[simp] theorem State.setItState_payloadByte : (s.setItState i).payloadByte = s.payloadByte := rfl

end

/-! ### setKind -/

section

variable (s : State) (k : Kind)

@[simp] theorem State.setKind_cmd : (s.setKind k).cmd = s.cmd := rfl
@[simp] theorem State.setKind_err : (s.setKind k).err = s.err := rfl
@[simp] theorem State.setKind_arg : (s.setKind k).arg = s.arg := rfl
@[simp] theorem State.setKind_res : (s.setKind k).res = s.res := rfl
@[simp] theorem State.setKind_byte0 : (s.setKind k).byte0 = s.byte0 := rfl
@[simp] theorem State.setKind_byte1 : (s.setKind k).byte1 = s.byte1 := rfl
@[simp] theorem State.setKind_byte2 : (s.setKind k).byte2 = s.byte2 := rfl
@[simp] theorem State.setKind_byte3 : (s.setKind k).byte3 = s.byte3 := rfl
@[simp] theorem State.setKind_txDst : (s.setKind k).txDst = s.txDst := rfl
@[simp] theorem State.setKind_txSrc : (s.setKind k).txSrc = s.txSrc := rfl
@[simp] theorem State.setKind_txFrameId : (s.setKind k).txFrameId = s.txFrameId := rfl
@[simp] theorem State.setKind_txServiceId : (s.setKind k).txServiceId = s.txServiceId := rfl
@[simp] theorem State.setKind_txServiceType : (s.setKind k).txServiceType = s.txServiceType := rfl
@[simp] theorem State.setKind_txXid : (s.setKind k).txXid = s.txXid := rfl
@[simp] theorem State.setKind_txDelay : (s.setKind k).txDelay = s.txDelay := rfl
@[simp] theorem State.setKind_txOpt : (s.setKind k).txOpt = s.txOpt := rfl
@[simp] theorem State.setKind_txSub : (s.setKind k).txSub = s.txSub := rfl
@[simp] theorem State.setKind_valLen : (s.setKind k).valLen = s.valLen := rfl
@[simp] theorem State.setKind_txLen : (s.setKind k).txLen = s.txLen := rfl
@[simp] theorem State.setKind_rxLen : (s.setKind k).rxLen = s.rxLen := rfl
@[simp] theorem State.setKind_rxStage : (s.setKind k).rxStage = s.rxStage := rfl
@[simp] theorem State.setKind_rxDst : (s.setKind k).rxDst = s.rxDst := rfl
@[simp] theorem State.setKind_rxSrc : (s.setKind k).rxSrc = s.rxSrc := rfl
@[simp] theorem State.setKind_rxEtype : (s.setKind k).rxEtype = s.rxEtype := rfl
@[simp] theorem State.setKind_rxFrameId : (s.setKind k).rxFrameId = s.rxFrameId := rfl
@[simp] theorem State.setKind_rxServiceId : (s.setKind k).rxServiceId = s.rxServiceId := rfl
@[simp] theorem State.setKind_rxServiceType : (s.setKind k).rxServiceType = s.rxServiceType := rfl
@[simp] theorem State.setKind_rxXid : (s.setKind k).rxXid = s.rxXid := rfl
@[simp] theorem State.setKind_rxDelay : (s.setKind k).rxDelay = s.rxDelay := rfl
@[simp] theorem State.setKind_rxPlen : (s.setKind k).rxPlen = s.rxPlen := rfl
@[simp] theorem State.setKind_rxPavail : (s.setKind k).rxPavail = s.rxPavail := rfl
@[simp] theorem State.setKind_rxValid : (s.setKind k).rxValid = s.rxValid := rfl
@[simp] theorem State.setKind_itState : (s.setKind k).itState = s.itState := rfl
@[simp] theorem State.setKind_itCur : (s.setKind k).itCur = s.itCur := rfl
@[simp] theorem State.setKind_itRem : (s.setKind k).itRem = s.itRem := rfl
@[simp] theorem State.setKind_itNblk : (s.setKind k).itNblk = s.itNblk := rfl
@[simp] theorem State.setKind_blk : (s.setKind k).blk = s.blk := rfl
@[simp] theorem State.setKind_kind : (s.setKind k).kind = k := rfl
@[simp] theorem State.setKind_ackStatus : (s.setKind k).ackStatus = s.ackStatus := rfl
@[simp] theorem State.setKind_ackKnown : (s.setKind k).ackKnown = s.ackKnown := rfl
@[simp] theorem State.setKind_rxBuf : (s.setKind k).rxBuf = s.rxBuf := rfl
@[simp] theorem State.setKind_txBuf : (s.setKind k).txBuf = s.txBuf := rfl
@[simp] theorem State.setKind_valBuf : (s.setKind k).valBuf = s.valBuf := rfl
@[simp] theorem State.setKind_hostOps : (s.setKind k).hostOps = s.hostOps := rfl
@[simp] theorem State.setKind_reply : (s.setKind k).reply = s.reply := rfl
@[simp] theorem State.setKind_epoch : (s.setKind k).epoch = s.epoch := rfl
@[simp] theorem State.setKind_buf (w : Buf) : (s.setKind k).buf w = s.buf w := by cases w <;> rfl
@[simp] theorem State.setKind_byteAt (w : Buf) (j : Nat) : (s.setKind k).byteAt w j = s.byteAt w j := by
  cases w <;> rfl
@[simp] theorem State.setKind_rxByte : (s.setKind k).rxByte = s.rxByte := rfl
@[simp] theorem State.setKind_txByte : (s.setKind k).txByte = s.txByte := rfl
@[simp] theorem State.setKind_valByte : (s.setKind k).valByte = s.valByte := rfl
@[simp] theorem State.setKind_payloadByte : (s.setKind k).payloadByte = s.payloadByte := rfl

end

/-! ### dropDecode -/

section

variable (s : State) (g : RxStage)

@[simp] theorem State.dropDecode_cmd : (s.dropDecode g).cmd = s.cmd := rfl
@[simp] theorem State.dropDecode_err : (s.dropDecode g).err = s.err := rfl
@[simp] theorem State.dropDecode_arg : (s.dropDecode g).arg = s.arg := rfl
@[simp] theorem State.dropDecode_res : (s.dropDecode g).res = s.res := rfl
@[simp] theorem State.dropDecode_byte0 : (s.dropDecode g).byte0 = s.byte0 := rfl
@[simp] theorem State.dropDecode_byte1 : (s.dropDecode g).byte1 = s.byte1 := rfl
@[simp] theorem State.dropDecode_byte2 : (s.dropDecode g).byte2 = s.byte2 := rfl
@[simp] theorem State.dropDecode_byte3 : (s.dropDecode g).byte3 = s.byte3 := rfl
@[simp] theorem State.dropDecode_txDst : (s.dropDecode g).txDst = s.txDst := rfl
@[simp] theorem State.dropDecode_txSrc : (s.dropDecode g).txSrc = s.txSrc := rfl
@[simp] theorem State.dropDecode_txFrameId : (s.dropDecode g).txFrameId = s.txFrameId := rfl
@[simp] theorem State.dropDecode_txServiceId : (s.dropDecode g).txServiceId = s.txServiceId := rfl
@[simp] theorem State.dropDecode_txServiceType : (s.dropDecode g).txServiceType = s.txServiceType := rfl
@[simp] theorem State.dropDecode_txXid : (s.dropDecode g).txXid = s.txXid := rfl
@[simp] theorem State.dropDecode_txDelay : (s.dropDecode g).txDelay = s.txDelay := rfl
@[simp] theorem State.dropDecode_txOpt : (s.dropDecode g).txOpt = s.txOpt := rfl
@[simp] theorem State.dropDecode_txSub : (s.dropDecode g).txSub = s.txSub := rfl
@[simp] theorem State.dropDecode_valLen : (s.dropDecode g).valLen = s.valLen := rfl
@[simp] theorem State.dropDecode_txLen : (s.dropDecode g).txLen = s.txLen := rfl
@[simp] theorem State.dropDecode_rxLen : (s.dropDecode g).rxLen = s.rxLen := rfl
@[simp] theorem State.dropDecode_rxStage : (s.dropDecode g).rxStage = g := rfl
@[simp] theorem State.dropDecode_rxDst : (s.dropDecode g).rxDst = s.rxDst := rfl
@[simp] theorem State.dropDecode_rxSrc : (s.dropDecode g).rxSrc = s.rxSrc := rfl
@[simp] theorem State.dropDecode_rxEtype : (s.dropDecode g).rxEtype = s.rxEtype := rfl
@[simp] theorem State.dropDecode_rxFrameId : (s.dropDecode g).rxFrameId = s.rxFrameId := rfl
@[simp] theorem State.dropDecode_rxServiceId : (s.dropDecode g).rxServiceId = s.rxServiceId := rfl
@[simp] theorem State.dropDecode_rxServiceType : (s.dropDecode g).rxServiceType = s.rxServiceType := rfl
@[simp] theorem State.dropDecode_rxXid : (s.dropDecode g).rxXid = s.rxXid := rfl
@[simp] theorem State.dropDecode_rxDelay : (s.dropDecode g).rxDelay = s.rxDelay := rfl
@[simp] theorem State.dropDecode_rxPlen : (s.dropDecode g).rxPlen = s.rxPlen := rfl
@[simp] theorem State.dropDecode_rxPavail : (s.dropDecode g).rxPavail = s.rxPavail := rfl
@[simp] theorem State.dropDecode_rxValid : (s.dropDecode g).rxValid = 0 := rfl
@[simp] theorem State.dropDecode_itState : (s.dropDecode g).itState = .idle := rfl
@[simp] theorem State.dropDecode_itCur : (s.dropDecode g).itCur = s.itCur := rfl
@[simp] theorem State.dropDecode_itRem : (s.dropDecode g).itRem = s.itRem := rfl
@[simp] theorem State.dropDecode_itNblk : (s.dropDecode g).itNblk = s.itNblk := rfl
@[simp] theorem State.dropDecode_blk : (s.dropDecode g).blk = s.blk := rfl
@[simp] theorem State.dropDecode_kind : (s.dropDecode g).kind = .none := rfl
@[simp] theorem State.dropDecode_ackStatus : (s.dropDecode g).ackStatus = s.ackStatus := rfl
@[simp] theorem State.dropDecode_ackKnown : (s.dropDecode g).ackKnown = s.ackKnown := rfl
@[simp] theorem State.dropDecode_rxBuf : (s.dropDecode g).rxBuf = s.rxBuf := rfl
@[simp] theorem State.dropDecode_txBuf : (s.dropDecode g).txBuf = s.txBuf := rfl
@[simp] theorem State.dropDecode_valBuf : (s.dropDecode g).valBuf = s.valBuf := rfl
@[simp] theorem State.dropDecode_hostOps : (s.dropDecode g).hostOps = s.hostOps := rfl
@[simp] theorem State.dropDecode_reply : (s.dropDecode g).reply = s.reply := rfl
@[simp] theorem State.dropDecode_epoch : (s.dropDecode g).epoch = s.epoch := rfl
@[simp] theorem State.dropDecode_buf (w : Buf) : (s.dropDecode g).buf w = s.buf w := by cases w <;> rfl
@[simp] theorem State.dropDecode_byteAt (w : Buf) (j : Nat) : (s.dropDecode g).byteAt w j = s.byteAt w j := by
  cases w <;> rfl
@[simp] theorem State.dropDecode_rxByte : (s.dropDecode g).rxByte = s.rxByte := rfl
@[simp] theorem State.dropDecode_txByte : (s.dropDecode g).txByte = s.txByte := rfl
@[simp] theorem State.dropDecode_valByte : (s.dropDecode g).valByte = s.valByte := rfl
@[simp] theorem State.dropDecode_payloadByte : (s.dropDecode g).payloadByte = s.payloadByte := rfl

end

/-! ### storeFrame -/

section

variable (s : State) (F : List Byte) (n : U32)

@[simp] theorem State.storeFrame_cmd : (s.storeFrame F n).cmd = s.cmd := rfl
@[simp] theorem State.storeFrame_err : (s.storeFrame F n).err = s.err := rfl
@[simp] theorem State.storeFrame_arg : (s.storeFrame F n).arg = s.arg := rfl
@[simp] theorem State.storeFrame_res : (s.storeFrame F n).res = s.res := rfl
@[simp] theorem State.storeFrame_byte0 : (s.storeFrame F n).byte0 = s.byte0 := rfl
@[simp] theorem State.storeFrame_byte1 : (s.storeFrame F n).byte1 = s.byte1 := rfl
@[simp] theorem State.storeFrame_byte2 : (s.storeFrame F n).byte2 = s.byte2 := rfl
@[simp] theorem State.storeFrame_byte3 : (s.storeFrame F n).byte3 = s.byte3 := rfl
@[simp] theorem State.storeFrame_txDst : (s.storeFrame F n).txDst = s.txDst := rfl
@[simp] theorem State.storeFrame_txSrc : (s.storeFrame F n).txSrc = s.txSrc := rfl
@[simp] theorem State.storeFrame_txFrameId : (s.storeFrame F n).txFrameId = s.txFrameId := rfl
@[simp] theorem State.storeFrame_txServiceId : (s.storeFrame F n).txServiceId = s.txServiceId := rfl
@[simp] theorem State.storeFrame_txServiceType : (s.storeFrame F n).txServiceType = s.txServiceType := rfl
@[simp] theorem State.storeFrame_txXid : (s.storeFrame F n).txXid = s.txXid := rfl
@[simp] theorem State.storeFrame_txDelay : (s.storeFrame F n).txDelay = s.txDelay := rfl
@[simp] theorem State.storeFrame_txOpt : (s.storeFrame F n).txOpt = s.txOpt := rfl
@[simp] theorem State.storeFrame_txSub : (s.storeFrame F n).txSub = s.txSub := rfl
@[simp] theorem State.storeFrame_valLen : (s.storeFrame F n).valLen = s.valLen := rfl
@[simp] theorem State.storeFrame_txLen : (s.storeFrame F n).txLen = n := rfl
@[simp] theorem State.storeFrame_rxLen : (s.storeFrame F n).rxLen = s.rxLen := rfl
@[simp] theorem State.storeFrame_rxStage : (s.storeFrame F n).rxStage = s.rxStage := rfl
@[simp] theorem State.storeFrame_rxDst : (s.storeFrame F n).rxDst = s.rxDst := rfl
@[simp] theorem State.storeFrame_rxSrc : (s.storeFrame F n).rxSrc = s.rxSrc := rfl
@[simp] theorem State.storeFrame_rxEtype : (s.storeFrame F n).rxEtype = s.rxEtype := rfl
@[simp] theorem State.storeFrame_rxFrameId : (s.storeFrame F n).rxFrameId = s.rxFrameId := rfl
@[simp] theorem State.storeFrame_rxServiceId : (s.storeFrame F n).rxServiceId = s.rxServiceId := rfl
@[simp] theorem State.storeFrame_rxServiceType : (s.storeFrame F n).rxServiceType = s.rxServiceType := rfl
@[simp] theorem State.storeFrame_rxXid : (s.storeFrame F n).rxXid = s.rxXid := rfl
@[simp] theorem State.storeFrame_rxDelay : (s.storeFrame F n).rxDelay = s.rxDelay := rfl
@[simp] theorem State.storeFrame_rxPlen : (s.storeFrame F n).rxPlen = s.rxPlen := rfl
@[simp] theorem State.storeFrame_rxPavail : (s.storeFrame F n).rxPavail = s.rxPavail := rfl
@[simp] theorem State.storeFrame_rxValid : (s.storeFrame F n).rxValid = s.rxValid := rfl
@[simp] theorem State.storeFrame_itState : (s.storeFrame F n).itState = s.itState := rfl
@[simp] theorem State.storeFrame_itCur : (s.storeFrame F n).itCur = s.itCur := rfl
@[simp] theorem State.storeFrame_itRem : (s.storeFrame F n).itRem = s.itRem := rfl
@[simp] theorem State.storeFrame_itNblk : (s.storeFrame F n).itNblk = s.itNblk := rfl
@[simp] theorem State.storeFrame_blk : (s.storeFrame F n).blk = s.blk := rfl
@[simp] theorem State.storeFrame_kind : (s.storeFrame F n).kind = s.kind := rfl
@[simp] theorem State.storeFrame_ackStatus : (s.storeFrame F n).ackStatus = s.ackStatus := rfl
@[simp] theorem State.storeFrame_ackKnown : (s.storeFrame F n).ackKnown = s.ackKnown := rfl
@[simp] theorem State.storeFrame_rxBuf : (s.storeFrame F n).rxBuf = s.rxBuf := rfl
@[simp] theorem State.storeFrame_txBuf : (s.storeFrame F n).txBuf = s.txBuf.write 0 F := rfl
@[simp] theorem State.storeFrame_valBuf : (s.storeFrame F n).valBuf = s.valBuf := rfl
@[simp] theorem State.storeFrame_hostOps : (s.storeFrame F n).hostOps = s.hostOps := rfl
@[simp] theorem State.storeFrame_reply : (s.storeFrame F n).reply = s.reply := rfl
@[simp] theorem State.storeFrame_epoch : (s.storeFrame F n).epoch = s.epoch := rfl

end

/-! ### setEnvelope -/

section

variable (s : State) (d r : Addr48) (e : U16)

@[simp] theorem State.setEnvelope_cmd : (s.setEnvelope d r e).cmd = s.cmd := rfl
@[simp] theorem State.setEnvelope_err : (s.setEnvelope d r e).err = s.err := rfl
@[simp] theorem State.setEnvelope_arg : (s.setEnvelope d r e).arg = s.arg := rfl
@[simp] theorem State.setEnvelope_res : (s.setEnvelope d r e).res = s.res := rfl
@[simp] theorem State.setEnvelope_byte0 : (s.setEnvelope d r e).byte0 = s.byte0 := rfl
@[simp] theorem State.setEnvelope_byte1 : (s.setEnvelope d r e).byte1 = s.byte1 := rfl
@[simp] theorem State.setEnvelope_byte2 : (s.setEnvelope d r e).byte2 = s.byte2 := rfl
@[simp] theorem State.setEnvelope_byte3 : (s.setEnvelope d r e).byte3 = s.byte3 := rfl
@[simp] theorem State.setEnvelope_txDst : (s.setEnvelope d r e).txDst = s.txDst := rfl
@[simp] theorem State.setEnvelope_txSrc : (s.setEnvelope d r e).txSrc = s.txSrc := rfl
@[simp] theorem State.setEnvelope_txFrameId : (s.setEnvelope d r e).txFrameId = s.txFrameId := rfl
@[simp] theorem State.setEnvelope_txServiceId : (s.setEnvelope d r e).txServiceId = s.txServiceId := rfl
@[simp] theorem State.setEnvelope_txServiceType : (s.setEnvelope d r e).txServiceType = s.txServiceType := rfl
@[simp] theorem State.setEnvelope_txXid : (s.setEnvelope d r e).txXid = s.txXid := rfl
@[simp] theorem State.setEnvelope_txDelay : (s.setEnvelope d r e).txDelay = s.txDelay := rfl
@[simp] theorem State.setEnvelope_txOpt : (s.setEnvelope d r e).txOpt = s.txOpt := rfl
@[simp] theorem State.setEnvelope_txSub : (s.setEnvelope d r e).txSub = s.txSub := rfl
@[simp] theorem State.setEnvelope_valLen : (s.setEnvelope d r e).valLen = s.valLen := rfl
@[simp] theorem State.setEnvelope_txLen : (s.setEnvelope d r e).txLen = s.txLen := rfl
@[simp] theorem State.setEnvelope_rxLen : (s.setEnvelope d r e).rxLen = s.rxLen := rfl
@[simp] theorem State.setEnvelope_rxStage : (s.setEnvelope d r e).rxStage = s.rxStage := rfl
@[simp] theorem State.setEnvelope_rxDst : (s.setEnvelope d r e).rxDst = d := rfl
@[simp] theorem State.setEnvelope_rxSrc : (s.setEnvelope d r e).rxSrc = r := rfl
@[simp] theorem State.setEnvelope_rxEtype : (s.setEnvelope d r e).rxEtype = e := rfl
@[simp] theorem State.setEnvelope_rxFrameId : (s.setEnvelope d r e).rxFrameId = s.rxFrameId := rfl
@[simp] theorem State.setEnvelope_rxServiceId : (s.setEnvelope d r e).rxServiceId = s.rxServiceId := rfl
@[simp] theorem State.setEnvelope_rxServiceType : (s.setEnvelope d r e).rxServiceType = s.rxServiceType := rfl
@[simp] theorem State.setEnvelope_rxXid : (s.setEnvelope d r e).rxXid = s.rxXid := rfl
@[simp] theorem State.setEnvelope_rxDelay : (s.setEnvelope d r e).rxDelay = s.rxDelay := rfl
@[simp] theorem State.setEnvelope_rxPlen : (s.setEnvelope d r e).rxPlen = s.rxPlen := rfl
@[simp] theorem State.setEnvelope_rxPavail : (s.setEnvelope d r e).rxPavail = s.rxPavail := rfl
@[simp] theorem State.setEnvelope_rxValid : (s.setEnvelope d r e).rxValid = s.rxValid := rfl
@[simp] theorem State.setEnvelope_itState : (s.setEnvelope d r e).itState = s.itState := rfl
@[simp] theorem State.setEnvelope_itCur : (s.setEnvelope d r e).itCur = s.itCur := rfl
@[simp] theorem State.setEnvelope_itRem : (s.setEnvelope d r e).itRem = s.itRem := rfl
@[simp] theorem State.setEnvelope_itNblk : (s.setEnvelope d r e).itNblk = s.itNblk := rfl
@[simp] theorem State.setEnvelope_blk : (s.setEnvelope d r e).blk = s.blk := rfl
@[simp] theorem State.setEnvelope_kind : (s.setEnvelope d r e).kind = s.kind := rfl
@[simp] theorem State.setEnvelope_ackStatus : (s.setEnvelope d r e).ackStatus = s.ackStatus := rfl
@[simp] theorem State.setEnvelope_ackKnown : (s.setEnvelope d r e).ackKnown = s.ackKnown := rfl
@[simp] theorem State.setEnvelope_rxBuf : (s.setEnvelope d r e).rxBuf = s.rxBuf := rfl
@[simp] theorem State.setEnvelope_txBuf : (s.setEnvelope d r e).txBuf = s.txBuf := rfl
@[simp] theorem State.setEnvelope_valBuf : (s.setEnvelope d r e).valBuf = s.valBuf := rfl
@[simp] theorem State.setEnvelope_hostOps : (s.setEnvelope d r e).hostOps = s.hostOps := rfl
@[simp] theorem State.setEnvelope_reply : (s.setEnvelope d r e).reply = s.reply := rfl
@[simp] theorem State.setEnvelope_epoch : (s.setEnvelope d r e).epoch = s.epoch := rfl
@[simp] theorem State.setEnvelope_buf (w : Buf) : (s.setEnvelope d r e).buf w = s.buf w := by cases w <;> rfl
@[simp] theorem State.setEnvelope_byteAt (w : Buf) (j : Nat) : (s.setEnvelope d r e).byteAt w j = s.byteAt w j := by
  cases w <;> rfl
@[simp] theorem State.setEnvelope_rxByte : (s.setEnvelope d r e).rxByte = s.rxByte := rfl
@[simp] theorem State.setEnvelope_txByte : (s.setEnvelope d r e).txByte = s.txByte := rfl
@[simp] theorem State.setEnvelope_valByte : (s.setEnvelope d r e).valByte = s.valByte := rfl
@[simp] theorem State.setEnvelope_payloadByte : (s.setEnvelope d r e).payloadByte = s.payloadByte := rfl

end

/-! ### setHeader -/

section

variable (s : State)

@[simp] theorem State.setHeader_cmd : s.setHeader.cmd = s.cmd := rfl
@[simp] theorem State.setHeader_err : s.setHeader.err = s.err := rfl
@[simp] theorem State.setHeader_arg : s.setHeader.arg = s.arg := rfl
@[simp] theorem State.setHeader_res : s.setHeader.res = s.res := rfl
@[simp] theorem State.setHeader_byte0 : s.setHeader.byte0 = s.byte0 := rfl
@[simp] theorem State.setHeader_byte1 : s.setHeader.byte1 = s.byte1 := rfl
@[simp] theorem State.setHeader_byte2 : s.setHeader.byte2 = s.byte2 := rfl
@[simp] theorem State.setHeader_byte3 : s.setHeader.byte3 = s.byte3 := rfl
@[simp] theorem State.setHeader_txDst : s.setHeader.txDst = s.txDst := rfl
@[simp] theorem State.setHeader_txSrc : s.setHeader.txSrc = s.txSrc := rfl
@[simp] theorem State.setHeader_txFrameId : s.setHeader.txFrameId = s.txFrameId := rfl
@[simp] theorem State.setHeader_txServiceId : s.setHeader.txServiceId = s.txServiceId := rfl
@[simp] theorem State.setHeader_txServiceType : s.setHeader.txServiceType = s.txServiceType := rfl
@[simp] theorem State.setHeader_txXid : s.setHeader.txXid = s.txXid := rfl
@[simp] theorem State.setHeader_txDelay : s.setHeader.txDelay = s.txDelay := rfl
@[simp] theorem State.setHeader_txOpt : s.setHeader.txOpt = s.txOpt := rfl
@[simp] theorem State.setHeader_txSub : s.setHeader.txSub = s.txSub := rfl
@[simp] theorem State.setHeader_valLen : s.setHeader.valLen = s.valLen := rfl
@[simp] theorem State.setHeader_txLen : s.setHeader.txLen = s.txLen := rfl
@[simp] theorem State.setHeader_rxLen : s.setHeader.rxLen = s.rxLen := rfl
@[simp] theorem State.setHeader_rxStage : s.setHeader.rxStage = s.rxStage := rfl
@[simp] theorem State.setHeader_rxDst : s.setHeader.rxDst = s.rxDst := rfl
@[simp] theorem State.setHeader_rxSrc : s.setHeader.rxSrc = s.rxSrc := rfl
@[simp] theorem State.setHeader_rxEtype : s.setHeader.rxEtype = s.rxEtype := rfl
@[simp] theorem State.setHeader_rxFrameId : s.setHeader.rxFrameId = rd16 s.rxByte 14 := rfl
@[simp] theorem State.setHeader_rxServiceId : s.setHeader.rxServiceId = s.rxByte 16 := rfl
@[simp] theorem State.setHeader_rxServiceType : s.setHeader.rxServiceType = s.rxByte 17 := rfl
@[simp] theorem State.setHeader_rxXid : s.setHeader.rxXid = rd32 s.rxByte 18 := rfl
@[simp] theorem State.setHeader_rxDelay : s.setHeader.rxDelay = rd16 s.rxByte 22 := rfl
@[simp] theorem State.setHeader_rxPlen : s.setHeader.rxPlen = rd16 s.rxByte 24 := rfl
@[simp] theorem State.setHeader_rxPavail : s.setHeader.rxPavail = BitVec.ofNat 32 (s.rxLen.toNat - 26) := rfl
@[simp] theorem State.setHeader_rxValid : s.setHeader.rxValid = validBit (s.rxByte 17) := rfl
@[simp] theorem State.setHeader_itState : s.setHeader.itState = s.itState := rfl
@[simp] theorem State.setHeader_itCur : s.setHeader.itCur = s.itCur := rfl
@[simp] theorem State.setHeader_itRem : s.setHeader.itRem = s.itRem := rfl
@[simp] theorem State.setHeader_itNblk : s.setHeader.itNblk = s.itNblk := rfl
@[simp] theorem State.setHeader_blk : s.setHeader.blk = s.blk := rfl
@[simp] theorem State.setHeader_kind : s.setHeader.kind = s.kind := rfl
@[simp] theorem State.setHeader_ackStatus : s.setHeader.ackStatus = s.ackStatus := rfl
@[simp] theorem State.setHeader_ackKnown : s.setHeader.ackKnown = s.ackKnown := rfl
@[simp] theorem State.setHeader_rxBuf : s.setHeader.rxBuf = s.rxBuf := rfl
@[simp] theorem State.setHeader_txBuf : s.setHeader.txBuf = s.txBuf := rfl
@[simp] theorem State.setHeader_valBuf : s.setHeader.valBuf = s.valBuf := rfl
@[simp] theorem State.setHeader_hostOps : s.setHeader.hostOps = s.hostOps := rfl
@[simp] theorem State.setHeader_reply : s.setHeader.reply = s.reply := rfl
@[simp] theorem State.setHeader_epoch : s.setHeader.epoch = s.epoch := rfl
@[simp] theorem State.setHeader_buf (w : Buf) : s.setHeader.buf w = s.buf w := by cases w <;> rfl
@[simp] theorem State.setHeader_byteAt (w : Buf) (j : Nat) : s.setHeader.byteAt w j = s.byteAt w j := by
  cases w <;> rfl
@[simp] theorem State.setHeader_rxByte : s.setHeader.rxByte = s.rxByte := rfl
@[simp] theorem State.setHeader_txByte : s.setHeader.txByte = s.txByte := rfl
@[simp] theorem State.setHeader_valByte : s.setHeader.valByte = s.valByte := rfl
@[simp] theorem State.setHeader_payloadByte : s.setHeader.payloadByte = s.payloadByte := rfl

end

/-! ### startWalk -/

section

variable (s : State)

@[simp] theorem State.startWalk_cmd : s.startWalk.cmd = s.cmd := rfl
@[simp] theorem State.startWalk_err : s.startWalk.err = s.err := rfl
@[simp] theorem State.startWalk_arg : s.startWalk.arg = s.arg := rfl
@[simp] theorem State.startWalk_res : s.startWalk.res = s.res := rfl
@[simp] theorem State.startWalk_byte0 : s.startWalk.byte0 = s.byte0 := rfl
@[simp] theorem State.startWalk_byte1 : s.startWalk.byte1 = s.byte1 := rfl
@[simp] theorem State.startWalk_byte2 : s.startWalk.byte2 = s.byte2 := rfl
@[simp] theorem State.startWalk_byte3 : s.startWalk.byte3 = s.byte3 := rfl
@[simp] theorem State.startWalk_txDst : s.startWalk.txDst = s.txDst := rfl
@[simp] theorem State.startWalk_txSrc : s.startWalk.txSrc = s.txSrc := rfl
@[simp] theorem State.startWalk_txFrameId : s.startWalk.txFrameId = s.txFrameId := rfl
@[simp] theorem State.startWalk_txServiceId : s.startWalk.txServiceId = s.txServiceId := rfl
@[simp] theorem State.startWalk_txServiceType : s.startWalk.txServiceType = s.txServiceType := rfl
@[simp] theorem State.startWalk_txXid : s.startWalk.txXid = s.txXid := rfl
@[simp] theorem State.startWalk_txDelay : s.startWalk.txDelay = s.txDelay := rfl
@[simp] theorem State.startWalk_txOpt : s.startWalk.txOpt = s.txOpt := rfl
@[simp] theorem State.startWalk_txSub : s.startWalk.txSub = s.txSub := rfl
@[simp] theorem State.startWalk_valLen : s.startWalk.valLen = s.valLen := rfl
@[simp] theorem State.startWalk_txLen : s.startWalk.txLen = s.txLen := rfl
@[simp] theorem State.startWalk_rxLen : s.startWalk.rxLen = s.rxLen := rfl
@[simp] theorem State.startWalk_rxStage : s.startWalk.rxStage = s.rxStage := rfl
@[simp] theorem State.startWalk_rxDst : s.startWalk.rxDst = s.rxDst := rfl
@[simp] theorem State.startWalk_rxSrc : s.startWalk.rxSrc = s.rxSrc := rfl
@[simp] theorem State.startWalk_rxEtype : s.startWalk.rxEtype = s.rxEtype := rfl
@[simp] theorem State.startWalk_rxFrameId : s.startWalk.rxFrameId = s.rxFrameId := rfl
@[simp] theorem State.startWalk_rxServiceId : s.startWalk.rxServiceId = s.rxServiceId := rfl
@[simp] theorem State.startWalk_rxServiceType : s.startWalk.rxServiceType = s.rxServiceType := rfl
@[simp] theorem State.startWalk_rxXid : s.startWalk.rxXid = s.rxXid := rfl
@[simp] theorem State.startWalk_rxDelay : s.startWalk.rxDelay = s.rxDelay := rfl
@[simp] theorem State.startWalk_rxPlen : s.startWalk.rxPlen = s.rxPlen := rfl
@[simp] theorem State.startWalk_rxPavail : s.startWalk.rxPavail = s.rxPavail := rfl
@[simp] theorem State.startWalk_rxValid : s.startWalk.rxValid = s.rxValid := rfl
@[simp] theorem State.startWalk_itState : s.startWalk.itState = .ready := rfl
@[simp] theorem State.startWalk_itCur : s.startWalk.itCur = 0 := rfl
@[simp] theorem State.startWalk_itRem : s.startWalk.itRem = s.rxPlen := rfl
@[simp] theorem State.startWalk_itNblk : s.startWalk.itNblk = 0 := rfl
@[simp] theorem State.startWalk_blk : s.startWalk.blk = s.blk := rfl
@[simp] theorem State.startWalk_kind : s.startWalk.kind = s.kind := rfl
@[simp] theorem State.startWalk_ackStatus : s.startWalk.ackStatus = s.ackStatus := rfl
@[simp] theorem State.startWalk_ackKnown : s.startWalk.ackKnown = s.ackKnown := rfl
@[simp] theorem State.startWalk_rxBuf : s.startWalk.rxBuf = s.rxBuf := rfl
@[simp] theorem State.startWalk_txBuf : s.startWalk.txBuf = s.txBuf := rfl
@[simp] theorem State.startWalk_valBuf : s.startWalk.valBuf = s.valBuf := rfl
@[simp] theorem State.startWalk_hostOps : s.startWalk.hostOps = s.hostOps := rfl
@[simp] theorem State.startWalk_reply : s.startWalk.reply = s.reply := rfl
@[simp] theorem State.startWalk_epoch : s.startWalk.epoch = s.epoch := rfl
@[simp] theorem State.startWalk_buf (w : Buf) : s.startWalk.buf w = s.buf w := by cases w <;> rfl
@[simp] theorem State.startWalk_byteAt (w : Buf) (j : Nat) : s.startWalk.byteAt w j = s.byteAt w j := by
  cases w <;> rfl
@[simp] theorem State.startWalk_rxByte : s.startWalk.rxByte = s.rxByte := rfl
@[simp] theorem State.startWalk_txByte : s.startWalk.txByte = s.txByte := rfl
@[simp] theorem State.startWalk_valByte : s.startWalk.valByte = s.valByte := rfl
@[simp] theorem State.startWalk_payloadByte : s.startWalk.payloadByte = s.payloadByte := rfl

end

/-! ### yieldBlock -/

section

variable (s : State) (r : BlockRegs)

@[simp] theorem State.yieldBlock_cmd : (s.yieldBlock r).cmd = s.cmd := rfl
@[simp] theorem State.yieldBlock_err : (s.yieldBlock r).err = s.err := rfl
@[simp] theorem State.yieldBlock_arg : (s.yieldBlock r).arg = s.arg := rfl
@[simp] theorem State.yieldBlock_res : (s.yieldBlock r).res = s.res := rfl
@[simp] theorem State.yieldBlock_byte0 : (s.yieldBlock r).byte0 = s.byte0 := rfl
@[simp] theorem State.yieldBlock_byte1 : (s.yieldBlock r).byte1 = s.byte1 := rfl
@[simp] theorem State.yieldBlock_byte2 : (s.yieldBlock r).byte2 = s.byte2 := rfl
@[simp] theorem State.yieldBlock_byte3 : (s.yieldBlock r).byte3 = s.byte3 := rfl
@[simp] theorem State.yieldBlock_txDst : (s.yieldBlock r).txDst = s.txDst := rfl
@[simp] theorem State.yieldBlock_txSrc : (s.yieldBlock r).txSrc = s.txSrc := rfl
@[simp] theorem State.yieldBlock_txFrameId : (s.yieldBlock r).txFrameId = s.txFrameId := rfl
@[simp] theorem State.yieldBlock_txServiceId : (s.yieldBlock r).txServiceId = s.txServiceId := rfl
@[simp] theorem State.yieldBlock_txServiceType : (s.yieldBlock r).txServiceType = s.txServiceType := rfl
@[simp] theorem State.yieldBlock_txXid : (s.yieldBlock r).txXid = s.txXid := rfl
@[simp] theorem State.yieldBlock_txDelay : (s.yieldBlock r).txDelay = s.txDelay := rfl
@[simp] theorem State.yieldBlock_txOpt : (s.yieldBlock r).txOpt = s.txOpt := rfl
@[simp] theorem State.yieldBlock_txSub : (s.yieldBlock r).txSub = s.txSub := rfl
@[simp] theorem State.yieldBlock_valLen : (s.yieldBlock r).valLen = s.valLen := rfl
@[simp] theorem State.yieldBlock_txLen : (s.yieldBlock r).txLen = s.txLen := rfl
@[simp] theorem State.yieldBlock_rxLen : (s.yieldBlock r).rxLen = s.rxLen := rfl
@[simp] theorem State.yieldBlock_rxStage : (s.yieldBlock r).rxStage = s.rxStage := rfl
@[simp] theorem State.yieldBlock_rxDst : (s.yieldBlock r).rxDst = s.rxDst := rfl
@[simp] theorem State.yieldBlock_rxSrc : (s.yieldBlock r).rxSrc = s.rxSrc := rfl
@[simp] theorem State.yieldBlock_rxEtype : (s.yieldBlock r).rxEtype = s.rxEtype := rfl
@[simp] theorem State.yieldBlock_rxFrameId : (s.yieldBlock r).rxFrameId = s.rxFrameId := rfl
@[simp] theorem State.yieldBlock_rxServiceId : (s.yieldBlock r).rxServiceId = s.rxServiceId := rfl
@[simp] theorem State.yieldBlock_rxServiceType : (s.yieldBlock r).rxServiceType = s.rxServiceType := rfl
@[simp] theorem State.yieldBlock_rxXid : (s.yieldBlock r).rxXid = s.rxXid := rfl
@[simp] theorem State.yieldBlock_rxDelay : (s.yieldBlock r).rxDelay = s.rxDelay := rfl
@[simp] theorem State.yieldBlock_rxPlen : (s.yieldBlock r).rxPlen = s.rxPlen := rfl
@[simp] theorem State.yieldBlock_rxPavail : (s.yieldBlock r).rxPavail = s.rxPavail := rfl
@[simp] theorem State.yieldBlock_rxValid : (s.yieldBlock r).rxValid = s.rxValid := rfl
@[simp] theorem State.yieldBlock_itState : (s.yieldBlock r).itState = .block := rfl
@[simp] theorem State.yieldBlock_itCur :
    (s.yieldBlock r).itCur = BitVec.ofNat 16 (s.itCur.toNat + r.cons.toNat) := rfl
@[simp] theorem State.yieldBlock_itRem :
    (s.yieldBlock r).itRem = BitVec.ofNat 16 (s.itRem.toNat - r.cons.toNat) := rfl
@[simp] theorem State.yieldBlock_itNblk : (s.yieldBlock r).itNblk = s.itNblk + 1 := rfl
@[simp] theorem State.yieldBlock_blk : (s.yieldBlock r).blk = r := rfl
@[simp] theorem State.yieldBlock_kind : (s.yieldBlock r).kind = s.kind := rfl
@[simp] theorem State.yieldBlock_ackStatus : (s.yieldBlock r).ackStatus = s.ackStatus := rfl
@[simp] theorem State.yieldBlock_ackKnown : (s.yieldBlock r).ackKnown = s.ackKnown := rfl
@[simp] theorem State.yieldBlock_rxBuf : (s.yieldBlock r).rxBuf = s.rxBuf := rfl
@[simp] theorem State.yieldBlock_txBuf : (s.yieldBlock r).txBuf = s.txBuf := rfl
@[simp] theorem State.yieldBlock_valBuf : (s.yieldBlock r).valBuf = s.valBuf := rfl
@[simp] theorem State.yieldBlock_hostOps : (s.yieldBlock r).hostOps = s.hostOps := rfl
@[simp] theorem State.yieldBlock_reply : (s.yieldBlock r).reply = s.reply := rfl
@[simp] theorem State.yieldBlock_epoch : (s.yieldBlock r).epoch = s.epoch := rfl
@[simp] theorem State.yieldBlock_buf (w : Buf) : (s.yieldBlock r).buf w = s.buf w := by cases w <;> rfl
@[simp] theorem State.yieldBlock_byteAt (w : Buf) (j : Nat) : (s.yieldBlock r).byteAt w j = s.byteAt w j := by
  cases w <;> rfl
@[simp] theorem State.yieldBlock_rxByte : (s.yieldBlock r).rxByte = s.rxByte := rfl
@[simp] theorem State.yieldBlock_txByte : (s.yieldBlock r).txByte = s.txByte := rfl
@[simp] theorem State.yieldBlock_valByte : (s.yieldBlock r).valByte = s.valByte := rfl
@[simp] theorem State.yieldBlock_payloadByte : (s.yieldBlock r).payloadByte = s.payloadByte := rfl

end

/-! ### setClass -/

section

variable (s : State) (k : Kind) (b : Byte) (n : BitVec 1)

@[simp] theorem State.setClass_cmd : (s.setClass k b n).cmd = s.cmd := rfl
@[simp] theorem State.setClass_err : (s.setClass k b n).err = s.err := rfl
@[simp] theorem State.setClass_arg : (s.setClass k b n).arg = s.arg := rfl
@[simp] theorem State.setClass_res : (s.setClass k b n).res = s.res := rfl
@[simp] theorem State.setClass_byte0 : (s.setClass k b n).byte0 = s.byte0 := rfl
@[simp] theorem State.setClass_byte1 : (s.setClass k b n).byte1 = s.byte1 := rfl
@[simp] theorem State.setClass_byte2 : (s.setClass k b n).byte2 = s.byte2 := rfl
@[simp] theorem State.setClass_byte3 : (s.setClass k b n).byte3 = s.byte3 := rfl
@[simp] theorem State.setClass_txDst : (s.setClass k b n).txDst = s.txDst := rfl
@[simp] theorem State.setClass_txSrc : (s.setClass k b n).txSrc = s.txSrc := rfl
@[simp] theorem State.setClass_txFrameId : (s.setClass k b n).txFrameId = s.txFrameId := rfl
@[simp] theorem State.setClass_txServiceId : (s.setClass k b n).txServiceId = s.txServiceId := rfl
@[simp] theorem State.setClass_txServiceType : (s.setClass k b n).txServiceType = s.txServiceType := rfl
@[simp] theorem State.setClass_txXid : (s.setClass k b n).txXid = s.txXid := rfl
@[simp] theorem State.setClass_txDelay : (s.setClass k b n).txDelay = s.txDelay := rfl
@[simp] theorem State.setClass_txOpt : (s.setClass k b n).txOpt = s.txOpt := rfl
@[simp] theorem State.setClass_txSub : (s.setClass k b n).txSub = s.txSub := rfl
@[simp] theorem State.setClass_valLen : (s.setClass k b n).valLen = s.valLen := rfl
@[simp] theorem State.setClass_txLen : (s.setClass k b n).txLen = s.txLen := rfl
@[simp] theorem State.setClass_rxLen : (s.setClass k b n).rxLen = s.rxLen := rfl
@[simp] theorem State.setClass_rxStage : (s.setClass k b n).rxStage = s.rxStage := rfl
@[simp] theorem State.setClass_rxDst : (s.setClass k b n).rxDst = s.rxDst := rfl
@[simp] theorem State.setClass_rxSrc : (s.setClass k b n).rxSrc = s.rxSrc := rfl
@[simp] theorem State.setClass_rxEtype : (s.setClass k b n).rxEtype = s.rxEtype := rfl
@[simp] theorem State.setClass_rxFrameId : (s.setClass k b n).rxFrameId = s.rxFrameId := rfl
@[simp] theorem State.setClass_rxServiceId : (s.setClass k b n).rxServiceId = s.rxServiceId := rfl
@[simp] theorem State.setClass_rxServiceType : (s.setClass k b n).rxServiceType = s.rxServiceType := rfl
@[simp] theorem State.setClass_rxXid : (s.setClass k b n).rxXid = s.rxXid := rfl
@[simp] theorem State.setClass_rxDelay : (s.setClass k b n).rxDelay = s.rxDelay := rfl
@[simp] theorem State.setClass_rxPlen : (s.setClass k b n).rxPlen = s.rxPlen := rfl
@[simp] theorem State.setClass_rxPavail : (s.setClass k b n).rxPavail = s.rxPavail := rfl
@[simp] theorem State.setClass_rxValid : (s.setClass k b n).rxValid = s.rxValid := rfl
@[simp] theorem State.setClass_itState : (s.setClass k b n).itState = s.itState := rfl
@[simp] theorem State.setClass_itCur : (s.setClass k b n).itCur = s.itCur := rfl
@[simp] theorem State.setClass_itRem : (s.setClass k b n).itRem = s.itRem := rfl
@[simp] theorem State.setClass_itNblk : (s.setClass k b n).itNblk = s.itNblk := rfl
@[simp] theorem State.setClass_blk : (s.setClass k b n).blk = s.blk := rfl
@[simp] theorem State.setClass_kind : (s.setClass k b n).kind = k := rfl
@[simp] theorem State.setClass_ackStatus : (s.setClass k b n).ackStatus = b := rfl
@[simp] theorem State.setClass_ackKnown : (s.setClass k b n).ackKnown = n := rfl
@[simp] theorem State.setClass_rxBuf : (s.setClass k b n).rxBuf = s.rxBuf := rfl
@[simp] theorem State.setClass_txBuf : (s.setClass k b n).txBuf = s.txBuf := rfl
@[simp] theorem State.setClass_valBuf : (s.setClass k b n).valBuf = s.valBuf := rfl
@[simp] theorem State.setClass_hostOps : (s.setClass k b n).hostOps = s.hostOps := rfl
@[simp] theorem State.setClass_reply : (s.setClass k b n).reply = s.reply := rfl
@[simp] theorem State.setClass_epoch : (s.setClass k b n).epoch = s.epoch := rfl
@[simp] theorem State.setClass_buf (w : Buf) : (s.setClass k b n).buf w = s.buf w := by cases w <;> rfl
@[simp] theorem State.setClass_byteAt (w : Buf) (j : Nat) : (s.setClass k b n).byteAt w j = s.byteAt w j := by
  cases w <;> rfl
@[simp] theorem State.setClass_rxByte : (s.setClass k b n).rxByte = s.rxByte := rfl
@[simp] theorem State.setClass_txByte : (s.setClass k b n).txByte = s.txByte := rfl
@[simp] theorem State.setClass_valByte : (s.setClass k b n).valByte = s.valByte := rfl
@[simp] theorem State.setClass_payloadByte : (s.setClass k b n).payloadByte = s.payloadByte := rfl

end

/-! ### withCmd -/

section

variable (s : State) (c : Byte)

@[simp] theorem State.withCmd_cmd : (s.withCmd c).cmd = c := rfl
@[simp] theorem State.withCmd_err : (s.withCmd c).err = s.err := rfl
@[simp] theorem State.withCmd_arg : (s.withCmd c).arg = s.arg := rfl
@[simp] theorem State.withCmd_res : (s.withCmd c).res = s.res := rfl
@[simp] theorem State.withCmd_byte0 : (s.withCmd c).byte0 = s.byte0 := rfl
@[simp] theorem State.withCmd_byte1 : (s.withCmd c).byte1 = s.byte1 := rfl
@[simp] theorem State.withCmd_byte2 : (s.withCmd c).byte2 = s.byte2 := rfl
@[simp] theorem State.withCmd_byte3 : (s.withCmd c).byte3 = s.byte3 := rfl
@[simp] theorem State.withCmd_txDst : (s.withCmd c).txDst = s.txDst := rfl
@[simp] theorem State.withCmd_txSrc : (s.withCmd c).txSrc = s.txSrc := rfl
@[simp] theorem State.withCmd_txFrameId : (s.withCmd c).txFrameId = s.txFrameId := rfl
@[simp] theorem State.withCmd_txServiceId : (s.withCmd c).txServiceId = s.txServiceId := rfl
@[simp] theorem State.withCmd_txServiceType : (s.withCmd c).txServiceType = s.txServiceType := rfl
@[simp] theorem State.withCmd_txXid : (s.withCmd c).txXid = s.txXid := rfl
@[simp] theorem State.withCmd_txDelay : (s.withCmd c).txDelay = s.txDelay := rfl
@[simp] theorem State.withCmd_txOpt : (s.withCmd c).txOpt = s.txOpt := rfl
@[simp] theorem State.withCmd_txSub : (s.withCmd c).txSub = s.txSub := rfl
@[simp] theorem State.withCmd_valLen : (s.withCmd c).valLen = s.valLen := rfl
@[simp] theorem State.withCmd_txLen : (s.withCmd c).txLen = s.txLen := rfl
@[simp] theorem State.withCmd_rxLen : (s.withCmd c).rxLen = s.rxLen := rfl
@[simp] theorem State.withCmd_rxStage : (s.withCmd c).rxStage = s.rxStage := rfl
@[simp] theorem State.withCmd_rxDst : (s.withCmd c).rxDst = s.rxDst := rfl
@[simp] theorem State.withCmd_rxSrc : (s.withCmd c).rxSrc = s.rxSrc := rfl
@[simp] theorem State.withCmd_rxEtype : (s.withCmd c).rxEtype = s.rxEtype := rfl
@[simp] theorem State.withCmd_rxFrameId : (s.withCmd c).rxFrameId = s.rxFrameId := rfl
@[simp] theorem State.withCmd_rxServiceId : (s.withCmd c).rxServiceId = s.rxServiceId := rfl
@[simp] theorem State.withCmd_rxServiceType : (s.withCmd c).rxServiceType = s.rxServiceType := rfl
@[simp] theorem State.withCmd_rxXid : (s.withCmd c).rxXid = s.rxXid := rfl
@[simp] theorem State.withCmd_rxDelay : (s.withCmd c).rxDelay = s.rxDelay := rfl
@[simp] theorem State.withCmd_rxPlen : (s.withCmd c).rxPlen = s.rxPlen := rfl
@[simp] theorem State.withCmd_rxPavail : (s.withCmd c).rxPavail = s.rxPavail := rfl
@[simp] theorem State.withCmd_rxValid : (s.withCmd c).rxValid = s.rxValid := rfl
@[simp] theorem State.withCmd_itState : (s.withCmd c).itState = s.itState := rfl
@[simp] theorem State.withCmd_itCur : (s.withCmd c).itCur = s.itCur := rfl
@[simp] theorem State.withCmd_itRem : (s.withCmd c).itRem = s.itRem := rfl
@[simp] theorem State.withCmd_itNblk : (s.withCmd c).itNblk = s.itNblk := rfl
@[simp] theorem State.withCmd_blk : (s.withCmd c).blk = s.blk := rfl
@[simp] theorem State.withCmd_kind : (s.withCmd c).kind = s.kind := rfl
@[simp] theorem State.withCmd_ackStatus : (s.withCmd c).ackStatus = s.ackStatus := rfl
@[simp] theorem State.withCmd_ackKnown : (s.withCmd c).ackKnown = s.ackKnown := rfl
@[simp] theorem State.withCmd_rxBuf : (s.withCmd c).rxBuf = s.rxBuf := rfl
@[simp] theorem State.withCmd_txBuf : (s.withCmd c).txBuf = s.txBuf := rfl
@[simp] theorem State.withCmd_valBuf : (s.withCmd c).valBuf = s.valBuf := rfl
@[simp] theorem State.withCmd_hostOps : (s.withCmd c).hostOps = s.hostOps := rfl
@[simp] theorem State.withCmd_reply : (s.withCmd c).reply = s.reply := rfl
@[simp] theorem State.withCmd_epoch : (s.withCmd c).epoch = s.epoch := rfl
@[simp] theorem State.withCmd_buf (w : Buf) : (s.withCmd c).buf w = s.buf w := by cases w <;> rfl
@[simp] theorem State.withCmd_byteAt (w : Buf) (j : Nat) : (s.withCmd c).byteAt w j = s.byteAt w j := by
  cases w <;> rfl
@[simp] theorem State.withCmd_rxByte : (s.withCmd c).rxByte = s.rxByte := rfl
@[simp] theorem State.withCmd_txByte : (s.withCmd c).txByte = s.txByte := rfl
@[simp] theorem State.withCmd_valByte : (s.withCmd c).valByte = s.valByte := rfl
@[simp] theorem State.withCmd_payloadByte : (s.withCmd c).payloadByte = s.payloadByte := rfl

end

/-! ### takeOp -/

section

variable (s : State) (o : List HostOp)

@[simp] theorem State.takeOp_cmd : (s.takeOp o).cmd = s.cmd := rfl
@[simp] theorem State.takeOp_err : (s.takeOp o).err = s.err := rfl
@[simp] theorem State.takeOp_arg : (s.takeOp o).arg = s.arg := rfl
@[simp] theorem State.takeOp_res : (s.takeOp o).res = s.res := rfl
@[simp] theorem State.takeOp_byte0 : (s.takeOp o).byte0 = s.byte0 := rfl
@[simp] theorem State.takeOp_byte1 : (s.takeOp o).byte1 = s.byte1 := rfl
@[simp] theorem State.takeOp_byte2 : (s.takeOp o).byte2 = s.byte2 := rfl
@[simp] theorem State.takeOp_byte3 : (s.takeOp o).byte3 = s.byte3 := rfl
@[simp] theorem State.takeOp_txDst : (s.takeOp o).txDst = s.txDst := rfl
@[simp] theorem State.takeOp_txSrc : (s.takeOp o).txSrc = s.txSrc := rfl
@[simp] theorem State.takeOp_txFrameId : (s.takeOp o).txFrameId = s.txFrameId := rfl
@[simp] theorem State.takeOp_txServiceId : (s.takeOp o).txServiceId = s.txServiceId := rfl
@[simp] theorem State.takeOp_txServiceType : (s.takeOp o).txServiceType = s.txServiceType := rfl
@[simp] theorem State.takeOp_txXid : (s.takeOp o).txXid = s.txXid := rfl
@[simp] theorem State.takeOp_txDelay : (s.takeOp o).txDelay = s.txDelay := rfl
@[simp] theorem State.takeOp_txOpt : (s.takeOp o).txOpt = s.txOpt := rfl
@[simp] theorem State.takeOp_txSub : (s.takeOp o).txSub = s.txSub := rfl
@[simp] theorem State.takeOp_valLen : (s.takeOp o).valLen = s.valLen := rfl
@[simp] theorem State.takeOp_txLen : (s.takeOp o).txLen = s.txLen := rfl
@[simp] theorem State.takeOp_rxLen : (s.takeOp o).rxLen = s.rxLen := rfl
@[simp] theorem State.takeOp_rxStage : (s.takeOp o).rxStage = s.rxStage := rfl
@[simp] theorem State.takeOp_rxDst : (s.takeOp o).rxDst = s.rxDst := rfl
@[simp] theorem State.takeOp_rxSrc : (s.takeOp o).rxSrc = s.rxSrc := rfl
@[simp] theorem State.takeOp_rxEtype : (s.takeOp o).rxEtype = s.rxEtype := rfl
@[simp] theorem State.takeOp_rxFrameId : (s.takeOp o).rxFrameId = s.rxFrameId := rfl
@[simp] theorem State.takeOp_rxServiceId : (s.takeOp o).rxServiceId = s.rxServiceId := rfl
@[simp] theorem State.takeOp_rxServiceType : (s.takeOp o).rxServiceType = s.rxServiceType := rfl
@[simp] theorem State.takeOp_rxXid : (s.takeOp o).rxXid = s.rxXid := rfl
@[simp] theorem State.takeOp_rxDelay : (s.takeOp o).rxDelay = s.rxDelay := rfl
@[simp] theorem State.takeOp_rxPlen : (s.takeOp o).rxPlen = s.rxPlen := rfl
@[simp] theorem State.takeOp_rxPavail : (s.takeOp o).rxPavail = s.rxPavail := rfl
@[simp] theorem State.takeOp_rxValid : (s.takeOp o).rxValid = s.rxValid := rfl
@[simp] theorem State.takeOp_itState : (s.takeOp o).itState = s.itState := rfl
@[simp] theorem State.takeOp_itCur : (s.takeOp o).itCur = s.itCur := rfl
@[simp] theorem State.takeOp_itRem : (s.takeOp o).itRem = s.itRem := rfl
@[simp] theorem State.takeOp_itNblk : (s.takeOp o).itNblk = s.itNblk := rfl
@[simp] theorem State.takeOp_blk : (s.takeOp o).blk = s.blk := rfl
@[simp] theorem State.takeOp_kind : (s.takeOp o).kind = s.kind := rfl
@[simp] theorem State.takeOp_ackStatus : (s.takeOp o).ackStatus = s.ackStatus := rfl
@[simp] theorem State.takeOp_ackKnown : (s.takeOp o).ackKnown = s.ackKnown := rfl
@[simp] theorem State.takeOp_rxBuf : (s.takeOp o).rxBuf = s.rxBuf := rfl
@[simp] theorem State.takeOp_txBuf : (s.takeOp o).txBuf = s.txBuf := rfl
@[simp] theorem State.takeOp_valBuf : (s.takeOp o).valBuf = s.valBuf := rfl
@[simp] theorem State.takeOp_hostOps : (s.takeOp o).hostOps = o := rfl
@[simp] theorem State.takeOp_reply : (s.takeOp o).reply = .nothing := rfl
@[simp] theorem State.takeOp_epoch : (s.takeOp o).epoch = s.epoch := rfl
@[simp] theorem State.takeOp_buf (w : Buf) : (s.takeOp o).buf w = s.buf w := by cases w <;> rfl
@[simp] theorem State.takeOp_byteAt (w : Buf) (j : Nat) : (s.takeOp o).byteAt w j = s.byteAt w j := by
  cases w <;> rfl
@[simp] theorem State.takeOp_rxByte : (s.takeOp o).rxByte = s.rxByte := rfl
@[simp] theorem State.takeOp_txByte : (s.takeOp o).txByte = s.txByte := rfl
@[simp] theorem State.takeOp_valByte : (s.takeOp o).valByte = s.valByte := rfl
@[simp] theorem State.takeOp_payloadByte : (s.takeOp o).payloadByte = s.payloadByte := rfl

end

/-! ### setReply -/

section

variable (s : State) (r : Reply)

@[simp] theorem State.setReply_cmd : (s.setReply r).cmd = s.cmd := rfl
@[simp] theorem State.setReply_err : (s.setReply r).err = s.err := rfl
@[simp] theorem State.setReply_arg : (s.setReply r).arg = s.arg := rfl
@[simp] theorem State.setReply_res : (s.setReply r).res = s.res := rfl
@[simp] theorem State.setReply_byte0 : (s.setReply r).byte0 = s.byte0 := rfl
@[simp] theorem State.setReply_byte1 : (s.setReply r).byte1 = s.byte1 := rfl
@[simp] theorem State.setReply_byte2 : (s.setReply r).byte2 = s.byte2 := rfl
@[simp] theorem State.setReply_byte3 : (s.setReply r).byte3 = s.byte3 := rfl
@[simp] theorem State.setReply_txDst : (s.setReply r).txDst = s.txDst := rfl
@[simp] theorem State.setReply_txSrc : (s.setReply r).txSrc = s.txSrc := rfl
@[simp] theorem State.setReply_txFrameId : (s.setReply r).txFrameId = s.txFrameId := rfl
@[simp] theorem State.setReply_txServiceId : (s.setReply r).txServiceId = s.txServiceId := rfl
@[simp] theorem State.setReply_txServiceType : (s.setReply r).txServiceType = s.txServiceType := rfl
@[simp] theorem State.setReply_txXid : (s.setReply r).txXid = s.txXid := rfl
@[simp] theorem State.setReply_txDelay : (s.setReply r).txDelay = s.txDelay := rfl
@[simp] theorem State.setReply_txOpt : (s.setReply r).txOpt = s.txOpt := rfl
@[simp] theorem State.setReply_txSub : (s.setReply r).txSub = s.txSub := rfl
@[simp] theorem State.setReply_valLen : (s.setReply r).valLen = s.valLen := rfl
@[simp] theorem State.setReply_txLen : (s.setReply r).txLen = s.txLen := rfl
@[simp] theorem State.setReply_rxLen : (s.setReply r).rxLen = s.rxLen := rfl
@[simp] theorem State.setReply_rxStage : (s.setReply r).rxStage = s.rxStage := rfl
@[simp] theorem State.setReply_rxDst : (s.setReply r).rxDst = s.rxDst := rfl
@[simp] theorem State.setReply_rxSrc : (s.setReply r).rxSrc = s.rxSrc := rfl
@[simp] theorem State.setReply_rxEtype : (s.setReply r).rxEtype = s.rxEtype := rfl
@[simp] theorem State.setReply_rxFrameId : (s.setReply r).rxFrameId = s.rxFrameId := rfl
@[simp] theorem State.setReply_rxServiceId : (s.setReply r).rxServiceId = s.rxServiceId := rfl
@[simp] theorem State.setReply_rxServiceType : (s.setReply r).rxServiceType = s.rxServiceType := rfl
@[simp] theorem State.setReply_rxXid : (s.setReply r).rxXid = s.rxXid := rfl
@[simp] theorem State.setReply_rxDelay : (s.setReply r).rxDelay = s.rxDelay := rfl
@[simp] theorem State.setReply_rxPlen : (s.setReply r).rxPlen = s.rxPlen := rfl
@[simp] theorem State.setReply_rxPavail : (s.setReply r).rxPavail = s.rxPavail := rfl
@[simp] theorem State.setReply_rxValid : (s.setReply r).rxValid = s.rxValid := rfl
@[simp] theorem State.setReply_itState : (s.setReply r).itState = s.itState := rfl
@[simp] theorem State.setReply_itCur : (s.setReply r).itCur = s.itCur := rfl
@[simp] theorem State.setReply_itRem : (s.setReply r).itRem = s.itRem := rfl
@[simp] theorem State.setReply_itNblk : (s.setReply r).itNblk = s.itNblk := rfl
@[simp] theorem State.setReply_blk : (s.setReply r).blk = s.blk := rfl
@[simp] theorem State.setReply_kind : (s.setReply r).kind = s.kind := rfl
@[simp] theorem State.setReply_ackStatus : (s.setReply r).ackStatus = s.ackStatus := rfl
@[simp] theorem State.setReply_ackKnown : (s.setReply r).ackKnown = s.ackKnown := rfl
@[simp] theorem State.setReply_rxBuf : (s.setReply r).rxBuf = s.rxBuf := rfl
@[simp] theorem State.setReply_txBuf : (s.setReply r).txBuf = s.txBuf := rfl
@[simp] theorem State.setReply_valBuf : (s.setReply r).valBuf = s.valBuf := rfl
@[simp] theorem State.setReply_hostOps : (s.setReply r).hostOps = s.hostOps := rfl
@[simp] theorem State.setReply_reply : (s.setReply r).reply = r := rfl
@[simp] theorem State.setReply_epoch : (s.setReply r).epoch = s.epoch := rfl
@[simp] theorem State.setReply_buf (w : Buf) : (s.setReply r).buf w = s.buf w := by cases w <;> rfl
@[simp] theorem State.setReply_byteAt (w : Buf) (j : Nat) : (s.setReply r).byteAt w j = s.byteAt w j := by
  cases w <;> rfl
@[simp] theorem State.setReply_rxByte : (s.setReply r).rxByte = s.rxByte := rfl
@[simp] theorem State.setReply_txByte : (s.setReply r).txByte = s.txByte := rfl
@[simp] theorem State.setReply_valByte : (s.setReply r).valByte = s.valByte := rfl
@[simp] theorem State.setReply_payloadByte : (s.setReply r).payloadByte = s.payloadByte := rfl

end

/-! ### storeVal -/

section

variable (s : State) (a : Nat) (F : List Byte)

@[simp] theorem State.storeVal_cmd : (s.storeVal a F).cmd = s.cmd := rfl
@[simp] theorem State.storeVal_err : (s.storeVal a F).err = s.err := rfl
@[simp] theorem State.storeVal_arg : (s.storeVal a F).arg = s.arg := rfl
@[simp] theorem State.storeVal_res : (s.storeVal a F).res = s.res := rfl
@[simp] theorem State.storeVal_byte0 : (s.storeVal a F).byte0 = s.byte0 := rfl
@[simp] theorem State.storeVal_byte1 : (s.storeVal a F).byte1 = s.byte1 := rfl
@[simp] theorem State.storeVal_byte2 : (s.storeVal a F).byte2 = s.byte2 := rfl
@[simp] theorem State.storeVal_byte3 : (s.storeVal a F).byte3 = s.byte3 := rfl
@[simp] theorem State.storeVal_txDst : (s.storeVal a F).txDst = s.txDst := rfl
@[simp] theorem State.storeVal_txSrc : (s.storeVal a F).txSrc = s.txSrc := rfl
@[simp] theorem State.storeVal_txFrameId : (s.storeVal a F).txFrameId = s.txFrameId := rfl
@[simp] theorem State.storeVal_txServiceId : (s.storeVal a F).txServiceId = s.txServiceId := rfl
@[simp] theorem State.storeVal_txServiceType : (s.storeVal a F).txServiceType = s.txServiceType := rfl
@[simp] theorem State.storeVal_txXid : (s.storeVal a F).txXid = s.txXid := rfl
@[simp] theorem State.storeVal_txDelay : (s.storeVal a F).txDelay = s.txDelay := rfl
@[simp] theorem State.storeVal_txOpt : (s.storeVal a F).txOpt = s.txOpt := rfl
@[simp] theorem State.storeVal_txSub : (s.storeVal a F).txSub = s.txSub := rfl
@[simp] theorem State.storeVal_valLen : (s.storeVal a F).valLen = s.valLen := rfl
@[simp] theorem State.storeVal_txLen : (s.storeVal a F).txLen = s.txLen := rfl
@[simp] theorem State.storeVal_rxLen : (s.storeVal a F).rxLen = s.rxLen := rfl
@[simp] theorem State.storeVal_rxStage : (s.storeVal a F).rxStage = s.rxStage := rfl
@[simp] theorem State.storeVal_rxDst : (s.storeVal a F).rxDst = s.rxDst := rfl
@[simp] theorem State.storeVal_rxSrc : (s.storeVal a F).rxSrc = s.rxSrc := rfl
@[simp] theorem State.storeVal_rxEtype : (s.storeVal a F).rxEtype = s.rxEtype := rfl
@[simp] theorem State.storeVal_rxFrameId : (s.storeVal a F).rxFrameId = s.rxFrameId := rfl
@[simp] theorem State.storeVal_rxServiceId : (s.storeVal a F).rxServiceId = s.rxServiceId := rfl
@[simp] theorem State.storeVal_rxServiceType : (s.storeVal a F).rxServiceType = s.rxServiceType := rfl
@[simp] theorem State.storeVal_rxXid : (s.storeVal a F).rxXid = s.rxXid := rfl
@[simp] theorem State.storeVal_rxDelay : (s.storeVal a F).rxDelay = s.rxDelay := rfl
@[simp] theorem State.storeVal_rxPlen : (s.storeVal a F).rxPlen = s.rxPlen := rfl
@[simp] theorem State.storeVal_rxPavail : (s.storeVal a F).rxPavail = s.rxPavail := rfl
@[simp] theorem State.storeVal_rxValid : (s.storeVal a F).rxValid = s.rxValid := rfl
@[simp] theorem State.storeVal_itState : (s.storeVal a F).itState = s.itState := rfl
@[simp] theorem State.storeVal_itCur : (s.storeVal a F).itCur = s.itCur := rfl
@[simp] theorem State.storeVal_itRem : (s.storeVal a F).itRem = s.itRem := rfl
@[simp] theorem State.storeVal_itNblk : (s.storeVal a F).itNblk = s.itNblk := rfl
@[simp] theorem State.storeVal_blk : (s.storeVal a F).blk = s.blk := rfl
@[simp] theorem State.storeVal_kind : (s.storeVal a F).kind = s.kind := rfl
@[simp] theorem State.storeVal_ackStatus : (s.storeVal a F).ackStatus = s.ackStatus := rfl
@[simp] theorem State.storeVal_ackKnown : (s.storeVal a F).ackKnown = s.ackKnown := rfl
@[simp] theorem State.storeVal_rxBuf : (s.storeVal a F).rxBuf = s.rxBuf := rfl
@[simp] theorem State.storeVal_txBuf : (s.storeVal a F).txBuf = s.txBuf := rfl
@[simp] theorem State.storeVal_valBuf : (s.storeVal a F).valBuf = s.valBuf.write a F := rfl
@[simp] theorem State.storeVal_hostOps : (s.storeVal a F).hostOps = s.hostOps := rfl
@[simp] theorem State.storeVal_reply : (s.storeVal a F).reply = s.reply := rfl
@[simp] theorem State.storeVal_epoch : (s.storeVal a F).epoch = s.epoch := rfl

end

/-! ### storeRx -/

section

variable (s : State) (F : List Byte)

@[simp] theorem State.storeRx_cmd : (s.storeRx F).cmd = s.cmd := rfl
@[simp] theorem State.storeRx_err : (s.storeRx F).err = s.err := rfl
@[simp] theorem State.storeRx_arg : (s.storeRx F).arg = s.arg := rfl
@[simp] theorem State.storeRx_res : (s.storeRx F).res = s.res := rfl
@[simp] theorem State.storeRx_byte0 : (s.storeRx F).byte0 = s.byte0 := rfl
@[simp] theorem State.storeRx_byte1 : (s.storeRx F).byte1 = s.byte1 := rfl
@[simp] theorem State.storeRx_byte2 : (s.storeRx F).byte2 = s.byte2 := rfl
@[simp] theorem State.storeRx_byte3 : (s.storeRx F).byte3 = s.byte3 := rfl
@[simp] theorem State.storeRx_txDst : (s.storeRx F).txDst = s.txDst := rfl
@[simp] theorem State.storeRx_txSrc : (s.storeRx F).txSrc = s.txSrc := rfl
@[simp] theorem State.storeRx_txFrameId : (s.storeRx F).txFrameId = s.txFrameId := rfl
@[simp] theorem State.storeRx_txServiceId : (s.storeRx F).txServiceId = s.txServiceId := rfl
@[simp] theorem State.storeRx_txServiceType : (s.storeRx F).txServiceType = s.txServiceType := rfl
@[simp] theorem State.storeRx_txXid : (s.storeRx F).txXid = s.txXid := rfl
@[simp] theorem State.storeRx_txDelay : (s.storeRx F).txDelay = s.txDelay := rfl
@[simp] theorem State.storeRx_txOpt : (s.storeRx F).txOpt = s.txOpt := rfl
@[simp] theorem State.storeRx_txSub : (s.storeRx F).txSub = s.txSub := rfl
@[simp] theorem State.storeRx_valLen : (s.storeRx F).valLen = s.valLen := rfl
@[simp] theorem State.storeRx_txLen : (s.storeRx F).txLen = s.txLen := rfl
@[simp] theorem State.storeRx_rxLen : (s.storeRx F).rxLen = BitVec.ofNat 32 F.length := rfl
@[simp] theorem State.storeRx_rxStage : (s.storeRx F).rxStage = s.rxStage := rfl
@[simp] theorem State.storeRx_rxDst : (s.storeRx F).rxDst = s.rxDst := rfl
@[simp] theorem State.storeRx_rxSrc : (s.storeRx F).rxSrc = s.rxSrc := rfl
@[simp] theorem State.storeRx_rxEtype : (s.storeRx F).rxEtype = s.rxEtype := rfl
@[simp] theorem State.storeRx_rxFrameId : (s.storeRx F).rxFrameId = s.rxFrameId := rfl
@[simp] theorem State.storeRx_rxServiceId : (s.storeRx F).rxServiceId = s.rxServiceId := rfl
@[simp] theorem State.storeRx_rxServiceType : (s.storeRx F).rxServiceType = s.rxServiceType := rfl
@[simp] theorem State.storeRx_rxXid : (s.storeRx F).rxXid = s.rxXid := rfl
@[simp] theorem State.storeRx_rxDelay : (s.storeRx F).rxDelay = s.rxDelay := rfl
@[simp] theorem State.storeRx_rxPlen : (s.storeRx F).rxPlen = s.rxPlen := rfl
@[simp] theorem State.storeRx_rxPavail : (s.storeRx F).rxPavail = s.rxPavail := rfl
@[simp] theorem State.storeRx_rxValid : (s.storeRx F).rxValid = s.rxValid := rfl
@[simp] theorem State.storeRx_itState : (s.storeRx F).itState = s.itState := rfl
@[simp] theorem State.storeRx_itCur : (s.storeRx F).itCur = s.itCur := rfl
@[simp] theorem State.storeRx_itRem : (s.storeRx F).itRem = s.itRem := rfl
@[simp] theorem State.storeRx_itNblk : (s.storeRx F).itNblk = s.itNblk := rfl
@[simp] theorem State.storeRx_blk : (s.storeRx F).blk = s.blk := rfl
@[simp] theorem State.storeRx_kind : (s.storeRx F).kind = s.kind := rfl
@[simp] theorem State.storeRx_ackStatus : (s.storeRx F).ackStatus = s.ackStatus := rfl
@[simp] theorem State.storeRx_ackKnown : (s.storeRx F).ackKnown = s.ackKnown := rfl
@[simp] theorem State.storeRx_rxBuf : (s.storeRx F).rxBuf = s.rxBuf.write 0 F := rfl
@[simp] theorem State.storeRx_txBuf : (s.storeRx F).txBuf = s.txBuf := rfl
@[simp] theorem State.storeRx_valBuf : (s.storeRx F).valBuf = s.valBuf := rfl
@[simp] theorem State.storeRx_hostOps : (s.storeRx F).hostOps = s.hostOps := rfl
@[simp] theorem State.storeRx_reply : (s.storeRx F).reply = s.reply := rfl
@[simp] theorem State.storeRx_epoch : (s.storeRx F).epoch = s.epoch := rfl

end

end Sys2Proof.Machine
end

