-- ==== Sys2Proof/Laws/Memory.lean ====
section
/-! SUPPORT. The laws of the byte buffers: read after write, and that every write keeps the canonical form. -/

namespace Sys2Proof.Machine

open Sys2Proof

/-- Reading back the byte just written (20_memory.md R72). -/
theorem Memory.read?_writeByte_same (m : Memory) (a : Nat) (v : Byte) : (m.writeByte a v).read? a = some v := by
  induction m with
  | nil => simp [Memory.writeByte, Memory.read?]
  | cons c m ih =>
    obtain ⟨k, b⟩ := c
    simp only [Memory.writeByte]
    split
    · simp [Memory.read?]
    · split
      · simp [Memory.read?]
      · next h => simp [Memory.read?, h, ih]

/-- A write leaves every other address alone (20_memory.md R72). -/
theorem Memory.read?_writeByte_other (m : Memory) {a x : Nat} (v : Byte) (h : x ≠ a) :
    (m.writeByte a v).read? x = m.read? x := by
  induction m with
  | nil => simp [Memory.writeByte, Memory.read?, h]
  | cons c m ih =>
    obtain ⟨k, b⟩ := c
    simp only [Memory.writeByte]
    split
    · simp [Memory.read?, h]
    · split
      · next hk => subst hk; simp [Memory.read?, h]
      · simp [Memory.read?, ih]

/-- A read after a write of a byte, in one equation. -/
theorem Memory.read?_writeByte (m : Memory) (a x : Nat) (v : Byte) :
    (m.writeByte a v).read? x = if x = a then some v else m.read? x := by
  split
  · next h => rw [h, Memory.read?_writeByte_same]
  · next h => exact Memory.read?_writeByte_other m v h

/-- A read after a write of a byte sequence: inside it the written byte, outside it what was there
(20_memory.md R67). -/
theorem Memory.read?_write (bytes : List Byte) (m : Memory) (a x : Nat) :
    (m.write a bytes).read? x =
      if a ≤ x ∧ x < a + bytes.length then some (byteView bytes (x - a)) else m.read? x := by
  induction bytes generalizing m a with
  | nil =>
    have h : ¬ (a ≤ x ∧ x < a + ([] : List Byte).length) := by simp
    rw [if_neg h]; rfl
  | cons v vs ih =>
    simp only [Memory.write, ih, Memory.read?_writeByte, List.length_cons]
    by_cases h1 : a + 1 ≤ x ∧ x < a + 1 + vs.length
    · have h2 : a ≤ x ∧ x < a + (vs.length + 1) := by omega
      rw [if_pos h1, if_pos h2]
      have h3 : x - a = (x - (a + 1)) + 1 := by omega
      simp [byteView, h3]
    · rw [if_neg h1]
      by_cases h4 : x = a
      · subst h4
        have h2 : x ≤ x ∧ x < x + (vs.length + 1) := by omega
        simp [byteView]
      · have h2 : ¬ (a ≤ x ∧ x < a + (vs.length + 1)) := by omega
        rw [if_neg h4, if_neg h2]

/-- The addresses of a buffer after a write of a byte. -/
theorem Memory.mem_keys_writeByte (m : Memory) (a k : Nat) (v : Byte) :
    k ∈ (m.writeByte a v).map Prod.fst ↔ k = a ∨ k ∈ m.map Prod.fst := by
  induction m with
  | nil => simp [Memory.writeByte]
  | cons c m ih =>
    obtain ⟨j, b⟩ := c
    simp only [Memory.writeByte]
    split
    · simp
    · split
      · next h => subst h; simp
      · simp only [List.map_cons, List.mem_cons, ih]; tauto

/-- A write of a byte keeps the canonical form (log 6). -/
theorem Memory.wf_writeByte {m : Memory} (hm : m.wf) (a : Nat) (v : Byte) : (m.writeByte a v).wf := by
  induction m with
  | nil => exact List.pairwise_singleton _ _
  | cons c m ih =>
    obtain ⟨k, b⟩ := c
    simp only [Memory.wf, List.map_cons, List.pairwise_cons] at hm
    simp only [Memory.writeByte]
    split
    · next h =>
      simp only [Memory.wf, List.map_cons, List.pairwise_cons, List.mem_cons]
      refine ⟨?_, hm⟩
      rintro x (rfl | hx)
      · exact h
      · exact lt_trans h (hm.1 x hx)
    · split
      · next h => subst h; exact List.pairwise_cons.mpr hm
      · next h1 h2 =>
        refine List.pairwise_cons.mpr ⟨?_, ih hm.2⟩
        intro x hx
        rcases (Memory.mem_keys_writeByte m a x v).mp hx with rfl | hx
        · simp only; omega
        · exact hm.1 x hx

/-- Every write keeps the canonical form (log 6). -/
theorem Memory.wf_write (bytes : List Byte) {m : Memory} (hm : m.wf) (a : Nat) : (m.write a bytes).wf := by
  induction bytes generalizing m a with
  | nil => exact hm
  | cons v vs ih => exact ih (Memory.wf_writeByte hm a v) (a + 1)

/-- The buffers of the reset state are in canonical form (log 6). -/
theorem State.reset_bufs_wf (b : Buf) : (State.reset.buf b).wf := by
  cases b <;> exact List.Pairwise.nil

/-- Every address a write lists was written by it or was there before. -/
theorem Memory.mem_keys_write (bytes : List Byte) (m : Memory) (a k : Nat) :
    k ∈ (m.write a bytes).map Prod.fst ↔ (a ≤ k ∧ k < a + bytes.length) ∨ k ∈ m.map Prod.fst := by
  induction bytes generalizing m a with
  | nil => simp [Memory.write]
  | cons v vs ih =>
    simp only [Memory.write, ih, Memory.mem_keys_writeByte, List.length_cons]
    constructor
    · rintro (h | h | h)
      · exact .inl (by omega)
      · exact .inl (by omega)
      · exact .inr h
    · rintro (h | h)
      · by_cases hk : k = a
        · exact .inr (.inl hk)
        · exact .inl (by omega)
      · exact .inr (.inr h)

/-- The byte a state reads from a buffer of its own after a write to that buffer's memory. -/
theorem State.txByte_of_write (s t : State) (bytes : List Byte) (a x : Nat)
    (hbuf : t.txBuf = s.txBuf.write a bytes) (hepoch : t.epoch = s.epoch) :
    t.txByte x = if a ≤ x ∧ x < a + bytes.length then byteView bytes (x - a) else s.txByte x := by
  simp only [State.txByte, State.byteAt, State.buf_tx, hbuf, hepoch, Memory.read?_write]
  by_cases h : a ≤ x ∧ x < a + bytes.length <;> simp [h]

/-- The same for RXBUF. -/
theorem State.rxByte_of_write (s t : State) (bytes : List Byte) (a x : Nat)
    (hbuf : t.rxBuf = s.rxBuf.write a bytes) (hepoch : t.epoch = s.epoch) :
    t.rxByte x = if a ≤ x ∧ x < a + bytes.length then byteView bytes (x - a) else s.rxByte x := by
  simp only [State.rxByte, State.byteAt, State.buf_rx, hbuf, hepoch, Memory.read?_write]
  by_cases h : a ≤ x ∧ x < a + bytes.length <;> simp [h]

/-- The same for VALBUF. -/
theorem State.valByte_of_write (s t : State) (bytes : List Byte) (a x : Nat)
    (hbuf : t.valBuf = s.valBuf.write a bytes) (hepoch : t.epoch = s.epoch) :
    t.valByte x = if a ≤ x ∧ x < a + bytes.length then byteView bytes (x - a) else s.valByte x := by
  simp only [State.valByte, State.byteAt, State.buf_val, hbuf, hepoch, Memory.read?_write]
  by_cases h : a ≤ x ∧ x < a + bytes.length <;> simp [h]

end Sys2Proof.Machine
end

