-- ==== Sys2Proof/Laws/Ops.lean ====
section
/-! SUPPORT. What each shared operation can do, said once: byte order, buffer access, the block parser, the host's issue
of a command, one step. -/

namespace Sys2Proof

/-- The machine's parameters meet the constraints of 00_scope.md R6, whatever the open capacities are. -/
theorem Config.params_ok : Config.params.ok := by
  have h1 := Nat.mod_lt Config.rxCapChoice (show 2 ^ 32 - 26 > 0 by norm_num)
  have h2 := Nat.mod_lt Config.txCapChoice (show 2 ^ 32 - 30 > 0 by norm_num)
  have h3 := Nat.mod_lt Config.valCapChoice (show 65536 > 0 by norm_num)
  simp only [Params.ok, Config.params, Config.rxCap, Config.txCap, Config.valCap]
  omega

end Sys2Proof

namespace Sys2Proof.Machine

open Sys2Proof

/-! ### Byte order -/

/-- R112's formula is exact: nothing is cut off. -/
theorem rd16_toNat (S : Nat → Byte) (i : Nat) : (rd16 S i).toNat = 256 * (S i).toNat + (S (i + 1)).toNat := by
  have h1 := (S i).isLt
  have h2 := (S (i + 1)).isLt
  simp only [rd16, BitVec.toNat_ofNat]
  omega

/-- R114's formula is exact: nothing is cut off. -/
theorem rd32_toNat (S : Nat → Byte) (i : Nat) : (rd32 S i).toNat =
    2 ^ 24 * (S i).toNat + 2 ^ 16 * (S (i + 1)).toNat + 2 ^ 8 * (S (i + 2)).toNat + (S (i + 3)).toNat := by
  have h1 := (S i).isLt
  have h2 := (S (i + 1)).isLt
  have h3 := (S (i + 2)).isLt
  have h4 := (S (i + 3)).isLt
  simp only [rd32, BitVec.toNat_ofNat]
  omega

/-- R64's formula is exact: nothing is cut off. -/
theorem rdmac_toNat (S : Nat → Byte) (i : Nat) : (rdmac S i).toNat =
    2 ^ 40 * (S i).toNat + 2 ^ 32 * (S (i + 1)).toNat + 2 ^ 24 * (S (i + 2)).toNat +
      2 ^ 16 * (S (i + 3)).toNat + 2 ^ 8 * (S (i + 4)).toNat + (S (i + 5)).toNat := by
  have h1 := (S i).isLt
  have h2 := (S (i + 1)).isLt
  have h3 := (S (i + 2)).isLt
  have h4 := (S (i + 3)).isLt
  have h5 := (S (i + 4)).isLt
  have h6 := (S (i + 5)).isLt
  simp only [rdmac, BitVec.toNat_ofNat]
  omega

/-- A u16 read depends on its two bytes only. -/
theorem rd16_congr {S T : Nat → Byte} {i : Nat} (h : ∀ j, i ≤ j → j < i + 2 → S j = T j) :
    rd16 S i = rd16 T i := by
  simp only [rd16, h i (by omega) (by omega), h (i + 1) (by omega) (by omega)]

/-- A u32 read depends on its four bytes only. -/
theorem rd32_congr {S T : Nat → Byte} {i : Nat} (h : ∀ j, i ≤ j → j < i + 4 → S j = T j) :
    rd32 S i = rd32 T i := by
  simp only [rd32, h i (by omega) (by omega), h (i + 1) (by omega) (by omega),
    h (i + 2) (by omega) (by omega), h (i + 3) (by omega) (by omega)]

@[simp] theorem be16_length (v : U16) : (be16 v).length = 2 := rfl
@[simp] theorem be32_length (v : U32) : (be32 v).length = 4 := rfl
@[simp] theorem mac_length (v : Addr48) : (mac v).length = 6 := rfl
@[simp] theorem zeros_length (n : Nat) : (zeros n).length = n := List.length_replicate

@[simp] theorem memRead_length (s : State) (b : Buf) (a n : Nat) : (s.memRead b a n).length = n := by
  simp [State.memRead]

/-- The bytes of a buffer read, one by one. -/
theorem memRead_byteView (s : State) (b : Buf) (a : Nat) {n i : Nat} (h : i < n) :
    byteView (s.memRead b a n) i = s.byteAt b (a + i) := by
  simp [byteView, State.memRead, h]

/-- The lengths of the frame's parts (41_block_codec.md R130, 42_frame_codec.md R154, R155). -/
@[simp] theorem blockReq_length (opt sub : Byte) (V : List Byte) :
    (blockReq opt sub V).length = 4 + V.length + V.length % 2 := by
  simp [blockReq]; omega

/-- A response block's layout is as long as its consumed span (41_block_codec.md R131, R134). -/
@[simp] theorem blockResp_length (opt sub : Byte) (status : U16) (V : List Byte) (pad : Byte) :
    (blockResp opt sub status V pad).length = consumedSpan (V.length + 2) := by
  simp [blockResp, consumedSpan]; omega

@[simp] theorem ethHdr_length (dst src : Addr48) : (ethHdr dst src).length = 14 := rfl

@[simp] theorem pktHdr_length (fid : U16) (sid stype : Byte) (xid : U32) (delay plen : U16) :
    (pktHdr fid sid stype xid delay plen).length = 12 := rfl

/-- `plen = 4 + n + (n mod 2)` (42_frame_codec.md R150). -/
@[simp] theorem txPayload_length (s : State) :
    s.txPayload.length = 4 + s.valLen.toNat + s.valLen.toNat % 2 := by
  simp [State.txPayload]

/-- The frame TXBUILD builds is `total` bytes long (42_frame_codec.md R150). -/
@[simp] theorem txFrame_length (P : Params) (s : State) : (s.txFrame P).length = s.txTotal P := by
  simp only [State.txFrame, State.txTotal, State.txBody, Config.rxPayloadBase, List.length_append, ethHdr_length,
    pktHdr_length, zeros_length, txPayload_length]
  omega

/-! ### Buffer access -/

/-- An access to valid bytes of RXBUF goes on. -/
theorem rxAccess_of_le {s : State} {a n : Nat} (h : a + n ≤ s.rxLen.toNat) (go : Result) :
    s.rxAccess a n go = go := by
  simp [State.rxAccess, Nat.not_lt.mpr h]

/-- What an access to RXBUF can do: it goes on within RXLEN, and faults outside. -/
theorem rxAccess_cases (s : State) (a n : Nat) (go : Result) :
    (a + n ≤ s.rxLen.toNat ∧ s.rxAccess a n go = go) ∨
      (s.rxLen.toNat < a + n ∧ s.rxAccess a n go = .fault (.outsideValid .rx a n)) := by
  by_cases h : a + n ≤ s.rxLen.toNat
  · exact .inl ⟨h, rxAccess_of_le h go⟩
  · exact .inr ⟨by omega, by simp [State.rxAccess, Nat.lt_of_not_le h]⟩

/-- If an access to the payload view answers a next state, the view lies in the valid bytes and what follows the access
answers that state. -/
theorem payloadAccess_next {s : State} {go : Result} {t : State} (h : s.payloadAccess go = .next t) :
    26 + s.rxPavail.toNat ≤ s.rxLen.toNat ∧ go = .next t := by
  rcases rxAccess_cases s Config.rxPayloadBase s.rxPavail.toNat go with ⟨hle, he⟩ | ⟨-, he⟩
  · exact ⟨hle, he ▸ h⟩
  · rw [State.payloadAccess, he] at h; nomatch h

/-- A payload view that lies in the valid bytes is read. -/
theorem payloadAccess_of_le {s : State} (h : 26 + s.rxPavail.toNat ≤ s.rxLen.toNat) (go : Result) :
    s.payloadAccess go = go :=
  rxAccess_of_le h go

/-- What the RXRD commands can do: an error with ERR alone written, or the result. -/
theorem rxRead_cases (s : State) (n : Nat) (value : U32) :
    (s.rxLen.toNat < s.arg.toNat + n ∧ s.rxRead n value = s.setErr .rxOob) ∨
      (s.arg.toNat + n ≤ s.rxLen.toNat ∧ s.rxRead n value = (s.setRes value).setErr .ok) := by
  by_cases h : s.arg.toNat + n ≤ s.rxLen.toNat
  · exact .inr ⟨h, by simp [State.rxRead, Nat.not_lt.mpr h]⟩
  · exact .inl ⟨by omega, by simp [State.rxRead, Nat.lt_of_not_le h]⟩

/-! ### The block parser -/

/-- What the parser can answer: each error under its check, in the written order, or the block record
(41_block_codec.md R132). -/
theorem blockAtView_cases (S : Nat → Byte) (avail p : Nat) :
    (avail < p + 4 ∧ blockAtView S avail p = .error .blkHdrTrunc) ∨
      (p + 4 ≤ avail ∧ (rd16 S (p + 2)).toNat < 2 ∧ blockAtView S avail p = .error .blkLenSmall) ∨
      (p + 4 ≤ avail ∧ 2 ≤ (rd16 S (p + 2)).toNat ∧ avail < p + 4 + (rd16 S (p + 2)).toNat ∧
        blockAtView S avail p = .error .blkValTrunc) ∨
      (2 ≤ (rd16 S (p + 2)).toNat ∧ p + 4 + (rd16 S (p + 2)).toNat ≤ avail ∧
        blockAtView S avail p = .ok (blockRecord S p)) := by
  unfold blockAtView
  split
  · next h => exact .inl ⟨h, rfl⟩
  · next h1 =>
    split
    · next h2 => exact .inr (.inl ⟨by omega, h2, rfl⟩)
    · next h2 =>
      split
      · next h3 => exact .inr (.inr (.inl ⟨by omega, by omega, h3, rfl⟩))
      · next h3 => exact .inr (.inr (.inr ⟨by omega, by omega, rfl⟩))

/-- A block the parser answers: its length is at least 2, it lies in the valid bytes, and it is the record of
41_block_codec.md R132. -/
theorem blockAtView_ok {S : Nat → Byte} {avail p : Nat} {r : BlockRegs} (h : blockAtView S avail p = .ok r) :
    2 ≤ (rd16 S (p + 2)).toNat ∧ p + 4 + (rd16 S (p + 2)).toNat ≤ avail ∧ r = blockRecord S p := by
  rcases blockAtView_cases S avail p with ⟨-, he⟩ | ⟨-, -, he⟩ | ⟨-, -, -, he⟩ | ⟨h2, h3, he⟩
  · rw [he] at h; nomatch h
  · rw [he] at h; nomatch h
  · rw [he] at h; nomatch h
  · rw [he] at h; exact ⟨h2, h3, (Except.ok.inj h).symm⟩

/-- The parser depends on the valid bytes only. -/
theorem blockAtView_congr {S T : Nat → Byte} {avail p : Nat} (h : ∀ j < avail, S j = T j) :
    blockAtView S avail p = blockAtView T avail p := by
  by_cases h0 : avail < p + 4
  · simp [blockAtView, h0]
  · have hlen : rd16 S (p + 2) = rd16 T (p + 2) := rd16_congr fun j _ hj => h j (by omega)
    by_cases h1 : avail < p + 4 + (rd16 T (p + 2)).toNat
    · simp [blockAtView, hlen, h1]
    · by_cases h2 : (rd16 T (p + 2)).toNat < 2
      · simp [blockAtView, hlen, h2]
      · have hs : rd16 S (p + 4) = rd16 T (p + 4) := rd16_congr fun j _ hj => h j (by omega)
        have hr : blockRecord S p = blockRecord T p := by
          simp only [blockRecord, hlen, hs, h p (by omega), h (p + 1) (by omega)]
        simp only [blockAtView, hlen, hr]

/-- The consumed span does not overflow BLK_CONS (41_block_codec.md R131). -/
theorem blockRecord_cons_toNat (S : Nat → Byte) (p : Nat) :
    (blockRecord S p).cons.toNat = consumedSpan (rd16 S (p + 2)).toNat := by
  have h := (rd16 S (p + 2)).isLt
  simp only [blockRecord, BitVec.toNat_ofNat, consumedSpan]
  omega

/-- The consumed span of a parsed block is even and at least 6 (41_block_codec.md R131). -/
theorem blockRecord_cons_ge {S : Nat → Byte} {p : Nat} (h : 2 ≤ (rd16 S (p + 2)).toNat) :
    6 ≤ (blockRecord S p).cons.toNat := by
  rw [blockRecord_cons_toNat]
  simp only [consumedSpan]
  omega

/-! ### The host's operations and one step -/

/-- A register's number names it (10_state.md R22). -/
theorem ofNumber_number (r : Reg) : Reg.ofNumber r.number = some r := by
  cases r <;> rfl

/-- The register a number names has that number. -/
theorem number_of_ofNumber {n : Byte} {r : Reg} (h : Reg.ofNumber n = some r) : r.number = n := by
  have hr := List.find?_some h
  exact eq_of_beq hr

/-- What a host register write can do: a reserved number ignores it, a value too wide is refused, and otherwise R ignores
it, RW stores it, CMD issues it (60_exceptions.md R205). -/
theorem hostWriteReg_cases (n : Byte) (v : Nat) (s : State) :
    (Reg.ofNumber n = none ∧ hostWriteReg n v s = .next s) ∨
      ∃ r, Reg.ofNumber n = some r ∧
        ((2 ^ r.width ≤ v ∧ hostWriteReg n v s = .refused (.valueTooWide r)) ∨
          (v < 2 ^ r.width ∧
            ((r.access = .readOnly ∧ hostWriteReg n v s = .next s) ∨
              (r.access = .readWrite ∧ hostWriteReg n v s = .next (s.setReg r v)) ∨
              (r.access = .command ∧ hostWriteReg n v s = issue (BitVec.ofNat 8 v) s)))) := by
  cases hn : Reg.ofNumber n with
  | none => exact .inl ⟨rfl, by simp [hostWriteReg, hn]⟩
  | some r =>
    refine .inr ⟨r, rfl, ?_⟩
    by_cases hv : v < 2 ^ r.width
    · refine .inr ⟨hv, ?_⟩
      cases ha : r.access <;> simp [hostWriteReg, hn, hv, ha]
    · exact .inl ⟨Nat.le_of_not_lt hv, by simp [hostWriteReg, hn, hv]⟩

/-- What a host read of TXBUF can do: a reply with the bytes, or a refusal (60_exceptions.md R205). -/
theorem hostReadTx_cases (a n : Nat) (s : State) :
    (a + n ≤ s.txLen.toNat ∧ hostReadTx a n s = .next (s.setReply (.bytes (s.memRead .tx a n)))) ∨
      (s.txLen.toNat < a + n ∧ hostReadTx a n s = .refused (.readOutOfRange .tx)) := by
  by_cases h : a + n ≤ s.txLen.toNat
  · exact .inl ⟨h, by simp [hostReadTx, Nat.not_lt.mpr h]⟩
  · exact .inr ⟨by omega, by simp [hostReadTx, Nat.lt_of_not_le h]⟩

/-- A run of host operations goes on from the state its first operation answers. -/
theorem hostRun_cons {op : HostOp} {rest : List HostOp} {s t : State} (h : hostStep op s = .next t) :
    hostRun (op :: rest) s = hostRun rest t := by
  simp [hostRun, h]

/-- A host write to an RW register stores the value, where it has the register's width (60_exceptions.md R205). -/
theorem hostWriteReg_readWrite {r : Reg} {v : Nat} (ha : r.access = .readWrite) (hv : v < 2 ^ r.width) (s : State) :
    hostWriteReg r.number v s = .next (s.setReg r v) := by
  simp [hostWriteReg, ofNumber_number, ha, hv]

/-- A host write of a byte to CMD issues it (10_state.md R23). -/
theorem hostWriteReg_cmd (c : Byte) (s : State) : hostWriteReg 0x00#8 c.toNat s = issue c s := by
  have h0 : Reg.ofNumber 0x00#8 = some .cmd := rfl
  have hv : c.toNat < 2 ^ Reg.cmd.width := c.isLt
  simp only [hostWriteReg, h0, hv, if_true, Reg.access, BitVec.ofNat_toNat, BitVec.setWidth_eq]

/-- A legal opcode performs its command with CMD written (10_state.md R23). -/
theorem issue_ok {c : Byte} {i : Instr} (h : decode c = .ok i) (s : State) : issue c s = exec i (s.withCmd c) := by
  simp [issue, h]

/-- An illegal opcode writes CMD and ERR only (60_exceptions.md R194). -/
theorem issue_illegal {c : Byte} {e : DecodeError} (h : decode c = .error e) (s : State) :
    issue c s = .next ((s.withCmd c).setErr .illegalCmd) := by
  cases e
  simp [issue, h]

/-- With no host operation waiting the step changes nothing (60_exceptions.md R202). -/
theorem step_of_no_operation {s : State} (h : s.hostOps = []) : step s = .next s := by
  simp [step, h]

/-- Otherwise the step performs the first of them. -/
theorem step_of_operation {s : State} {op : HostOp} {rest : List HostOp} (h : s.hostOps = op :: rest) :
    step s = hostStep op (s.takeOp rest) := by
  simp [step, h]

end Sys2Proof.Machine
end

