-- ==== Sys2Proof/Laws/Commands.lean ====
section
/-! SUPPORT. What each command with more than one outcome can do, said once in the named updates: one disjunct for each
path, its guards included. -/

namespace Sys2Proof.Machine

open Sys2Proof

/-- BLKDEC's paths (41_block_codec.md R133). -/
theorem execBlkdec_cases {s t : State} (h : execBlkdec s = .next t) :
    (s.rxStage ≠ .pktOk ∧ t = s.setErr .sequence) ∨
      (s.rxStage = .pktOk ∧ 26 + s.rxPavail.toNat ≤ s.rxLen.toNat ∧
        ((∃ e, s.blockAt s.arg.toNat = .error e ∧ t = s.setErr e) ∨
          ∃ r, s.blockAt s.arg.toNat = .ok r ∧ t = ((s.setBlk r).setRes (zext32 r.cons)).setErr .ok)) := by
  unfold execBlkdec at h
  split at h
  · next hs => exact .inl ⟨hs, (Host.Outcome.next.inj h).symm⟩
  · next hs =>
    obtain ⟨hle, h⟩ := payloadAccess_next h
    refine .inr ⟨not_not.mp hs, hle, ?_⟩
    split at h
    · next e he => exact .inl ⟨e, he, (Host.Outcome.next.inj h).symm⟩
    · next r hr => exact .inr ⟨r, hr, (Host.Outcome.next.inj h).symm⟩

/-- TXBUILD's paths (42_frame_codec.md R150). -/
theorem txbuild_cases {P : Params} {s t : State} (h : txbuild P s = .next t) :
    (t = s.setErr .valRange ∧ P.valCap < s.valLen.toNat) ∨
      (t = s.setErr .payloadTooLong ∧ s.valLen.toNat ≤ P.valCap ∧ 65535 < s.txPayload.length) ∨
      (t = s.setErr .txOverflow ∧ s.valLen.toNat ≤ P.valCap ∧ s.txPayload.length ≤ 65535 ∧
        P.txCap < s.txTotal P) ∨
      (t = ((s.storeFrame (s.txFrame P) (s.txTotal32 P)).setRes (s.txTotal32 P)).setErr .ok ∧
        s.valLen.toNat ≤ P.valCap ∧ s.txPayload.length ≤ 65535 ∧ s.txTotal P ≤ P.txCap) := by
  unfold txbuild at h
  split at h
  · next h1 => exact .inl ⟨(Host.Outcome.next.inj h).symm, h1⟩
  · next h1 =>
    split at h
    · next h2 => exact .inr (.inl ⟨(Host.Outcome.next.inj h).symm, by omega, h2⟩)
    · next h2 =>
      split at h
      · next h3 => exact .inr (.inr (.inl ⟨(Host.Outcome.next.inj h).symm, by omega, by omega, h3⟩))
      · next h3 => exact .inr (.inr (.inr ⟨(Host.Outcome.next.inj h).symm, by omega, by omega, by omega⟩))

/-- TXBUILD answers a next state on every path (60_exceptions.md R196). -/
theorem txbuild_answers (P : Params) (s : State) : ∃ t, txbuild P s = .next t := by
  unfold txbuild
  repeat' split
  all_goals exact ⟨_, rfl⟩

/-- ETHDEC's paths (42_frame_codec.md R151). -/
theorem execEthdec_cases {s t : State} (h : execEthdec s = .next t) :
    (s.rxLen.toNat < 14 ∧ t = (s.dropDecode .none).setErr .frameShort) ∨
      (14 ≤ s.rxLen.toNat ∧ rd16 s.rxByte 12 ≠ Config.ethertypeDcp ∧
        t = ((s.dropDecode .none).setEnvelope (rdmac s.rxByte 0) (rdmac s.rxByte 6) (rd16 s.rxByte 12)).setErr
          .etherType) ∨
      (14 ≤ s.rxLen.toNat ∧ rd16 s.rxByte 12 = Config.ethertypeDcp ∧
        t = (((s.dropDecode .none).setEnvelope (rdmac s.rxByte 0) (rdmac s.rxByte 6)
          (rd16 s.rxByte 12)).setStage .ethOk).setErr .ok) := by
  simp only [execEthdec] at h
  split at h
  · next h1 => exact .inl ⟨h1, (Host.Outcome.next.inj h).symm⟩
  · next h1 =>
    split at h
    · next h2 => exact .inr (.inl ⟨Nat.le_of_not_lt h1, h2, (Host.Outcome.next.inj h).symm⟩)
    · next h2 => exact .inr (.inr ⟨Nat.le_of_not_lt h1, not_not.mp h2, (Host.Outcome.next.inj h).symm⟩)

/-- PKTDEC's paths (42_frame_codec.md R152). -/
theorem execPktdec_cases {s t : State} (h : execPktdec s = .next t) :
    (s.rxStage = .none ∧ t = s.setErr .sequence) ∨
      (s.rxStage ≠ .none ∧ s.rxLen.toNat < 26 ∧ t = (s.dropDecode .ethOk).setErr .pktShort) ∨
      (s.rxStage ≠ .none ∧ 26 ≤ s.rxLen.toNat ∧
        t = ((s.dropDecode .ethOk).setHeader.setStage .pktOk).setErr .ok) := by
  unfold execPktdec at h
  split at h
  · next h1 => exact .inl ⟨h1, (Host.Outcome.next.inj h).symm⟩
  · next h1 =>
    split at h
    · next h2 => exact .inr (.inl ⟨h1, h2, (Host.Outcome.next.inj h).symm⟩)
    · next h2 => exact .inr (.inr ⟨h1, Nat.le_of_not_lt h2, (Host.Outcome.next.inj h).symm⟩)

/-- VALIDATE's paths (42_frame_codec.md R153). -/
theorem execValidate_cases {s t : State} (h : execValidate s = .next t) :
    (s.rxStage ≠ .pktOk ∧ t = s.setErr .sequence) ∨
      (s.rxStage = .pktOk ∧ s.rxValid = 1#1 ∧ t = (s.setRes (zext32 s.rxValid)).setErr .ok) ∨
      (s.rxStage = .pktOk ∧ s.rxValid ≠ 1#1 ∧ t = (s.setRes (zext32 s.rxValid)).setErr .notResponse) := by
  unfold execValidate at h
  split at h
  · next h1 => exact .inl ⟨h1, (Host.Outcome.next.inj h).symm⟩
  · next h1 =>
    split at h
    · next h2 => exact .inr (.inl ⟨not_not.mp h1, h2, (Host.Outcome.next.inj h).symm⟩)
    · next h2 => exact .inr (.inr ⟨not_not.mp h1, h2, (Host.Outcome.next.inj h).symm⟩)

/-- ITSTART's paths (43_iterator.md R171). -/
theorem execItstart_cases {s t : State} (h : execItstart s = .next t) :
    (s.rxStage ≠ .pktOk ∧ t = s.setErr .sequence) ∨
      (s.rxStage = .pktOk ∧ t = (s.startWalk.setRes 0).setErr .ok) := by
  unfold execItstart at h
  split at h
  · next h1 => exact .inl ⟨h1, (Host.Outcome.next.inj h).symm⟩
  · next h1 => exact .inr ⟨not_not.mp h1, (Host.Outcome.next.inj h).symm⟩

/-- ITNEXT's paths (43_iterator.md R172). -/
theorem execItnext_cases {s t : State} (h : execItnext s = .next t) :
    ((s.itState = .idle ∨ s.itState = .error) ∧ t = s.setErr .sequence) ∨
      (s.itState ≠ .idle ∧ s.itState ≠ .error ∧ (s.itState = .done ∨ s.itRem.toNat ≤ 6) ∧
        t = ((s.setItState .done).setRes 0).setErr .ok) ∨
      ((s.itState = .ready ∨ s.itState = .block) ∧ 6 < s.itRem.toNat ∧ 26 + s.rxPavail.toNat ≤ s.rxLen.toNat ∧
        ((∃ e, s.blockAt s.itCur.toNat = .error e ∧ t = (s.setItState .error).setErr e) ∨
          ∃ r, s.blockAt s.itCur.toNat = .ok r ∧
            ((s.itRem.toNat < r.cons.toNat ∧ t = (s.setItState .error).setErr .blkOverrun) ∨
              (r.cons.toNat ≤ s.itRem.toNat ∧ t = ((s.yieldBlock r).setRes 1).setErr .ok)))) := by
  unfold execItnext at h
  split at h
  · next h1 => exact .inl ⟨h1, (Host.Outcome.next.inj h).symm⟩
  · next h1 =>
    obtain ⟨hi, he⟩ := not_or.mp h1
    split at h
    · next h2 => exact .inr (.inl ⟨hi, he, h2, (Host.Outcome.next.inj h).symm⟩)
    · next h2 =>
      obtain ⟨hd, hr⟩ := not_or.mp h2
      have hst : s.itState = .ready ∨ s.itState = .block := by
        cases hc : s.itState with
        | idle => exact absurd hc hi
        | ready => exact .inl rfl
        | block => exact .inr rfl
        | done => exact absurd hc hd
        | error => exact absurd hc he
      obtain ⟨hle, h⟩ := payloadAccess_next h
      refine .inr (.inr ⟨hst, Nat.lt_of_not_le hr, hle, ?_⟩)
      split at h
      · next e he' => exact .inl ⟨e, he', (Host.Outcome.next.inj h).symm⟩
      · next r hr' =>
        split at h
        · next h3 => exact .inr ⟨r, hr', .inl ⟨h3, (Host.Outcome.next.inj h).symm⟩⟩
        · next h3 => exact .inr ⟨r, hr', .inr ⟨by omega, (Host.Outcome.next.inj h).symm⟩⟩

/-- CLASSIFY's paths (43_iterator.md R173). -/
theorem classify_cases {P : Params} {s t : State} (h : classify P s = .next t) :
    (s.rxStage ≠ .pktOk ∧ t = s.setErr .sequence) ∨
      (s.rxStage = .pktOk ∧ s.rxPlen.toNat ≤ 6 ∧ t = s.classifyAs .deviceData 0 0 1) ∨
      (s.rxStage = .pktOk ∧ 6 < s.rxPlen.toNat ∧ 26 + s.rxPavail.toNat ≤ s.rxLen.toNat ∧
        ((∃ e, s.blockAt 0 = .error e ∧ t = s.classifyError e) ∨
          ∃ r, s.blockAt 0 = .ok r ∧
            ((s.rxPlen.toNat < r.cons.toNat ∧ t = s.classifyError .blkOverrun) ∨
              (r.cons.toNat ≤ s.rxPlen.toNat ∧ r.opt = Config.controlOption ∧
                s.rxPavail.toNat ≤ P.ackStatusOffset ∧ t = s.classifyError .ackOob) ∨
              (r.cons.toNat ≤ s.rxPlen.toNat ∧ r.opt = Config.controlOption ∧
                P.ackStatusOffset < s.rxPavail.toNat ∧
                t = s.classifyAs .ack (s.payloadByte P.ackStatusOffset)
                  (ackKnownBit (s.payloadByte P.ackStatusOffset)) 2) ∨
              (r.cons.toNat ≤ s.rxPlen.toNat ∧ r.opt ≠ Config.controlOption ∧
                t = s.classifyAs .deviceData 0 0 1)))) := by
  unfold classify at h
  split at h
  · next h1 => exact .inl ⟨h1, (Host.Outcome.next.inj h).symm⟩
  · next h1 =>
    split at h
    · next h2 => exact .inr (.inl ⟨not_not.mp h1, h2, (Host.Outcome.next.inj h).symm⟩)
    · next h2 =>
      obtain ⟨hle, h⟩ := payloadAccess_next h
      refine .inr (.inr ⟨not_not.mp h1, Nat.lt_of_not_le h2, hle, ?_⟩)
      split at h
      · next e he => exact .inl ⟨e, he, (Host.Outcome.next.inj h).symm⟩
      · next r hr =>
        refine .inr ⟨r, hr, ?_⟩
        split at h
        · next h3 => exact .inl ⟨h3, (Host.Outcome.next.inj h).symm⟩
        · next h3 =>
          split at h
          · next h4 =>
            split at h
            · next h5 =>
              exact .inr (.inl ⟨by omega, h4, h5, (Host.Outcome.next.inj h).symm⟩)
            · next h5 =>
              exact .inr (.inr (.inl ⟨by omega, h4, by omega, (Host.Outcome.next.inj h).symm⟩))
          · next h4 => exact .inr (.inr (.inr ⟨by omega, h4, (Host.Outcome.next.inj h).symm⟩))

end Sys2Proof.Machine
end

