-- ==== Sys2Proof/Laws/PerInstr.lean ====
section
/-! SUPPORT. Per-command lemmas about the encoding (30_encoding.md R80 to R82). -/

namespace Sys2Proof.Laws.Encoding

open Sys2Proof

/-- The command is well formed, its opcode decodes to it, and the opcode's high nibble is that of its sub-block
(30_encoding.md R81, R82). -/
def Statement (i : Instr) : Prop :=
  i.wellFormed = true ∧ decode (encode i) = .ok i ∧ (encode i).extractLsb' 4 4 = groupNibble (commandGroup i)

theorem nop : Statement .nop := ⟨rfl, rfl, rfl⟩
theorem u16enc : Statement .u16enc := ⟨rfl, rfl, rfl⟩
theorem u16dec : Statement .u16dec := ⟨rfl, rfl, rfl⟩
theorem u32enc : Statement .u32enc := ⟨rfl, rfl, rfl⟩
theorem u32dec : Statement .u32dec := ⟨rfl, rfl, rfl⟩
theorem rxrd8 : Statement .rxrd8 := ⟨rfl, rfl, rfl⟩
theorem rxrd16 : Statement .rxrd16 := ⟨rfl, rfl, rfl⟩
theorem rxrd32 : Statement .rxrd32 := ⟨rfl, rfl, rfl⟩
theorem txbuild : Statement .txbuild := ⟨rfl, rfl, rfl⟩
theorem ethdec : Statement .ethdec := ⟨rfl, rfl, rfl⟩
theorem pktdec : Statement .pktdec := ⟨rfl, rfl, rfl⟩
theorem validate : Statement .validate := ⟨rfl, rfl, rfl⟩
theorem blkdec : Statement .blkdec := ⟨rfl, rfl, rfl⟩
theorem itstart : Statement .itstart := ⟨rfl, rfl, rfl⟩
theorem itnext : Statement .itnext := ⟨rfl, rfl, rfl⟩
theorem classify : Statement .classify := ⟨rfl, rfl, rfl⟩

end Sys2Proof.Laws.Encoding
end

