-- ==== Sys2Proof/Tests/Slice0.lean ====
section
/-! SUPPORT. The model's own tests: every opcode written out from 30_encoding.md R82, a term that each well-formedness
check refuses, one step of each command with the values of 95_test_vectors.md, and a state that meets the hypotheses of
each obligation, clause by clause at the boundary of its range. -/

namespace Sys2Proof.Tests

open Sys2Proof Sys2Proof.Machine

/-! ### Helpers -/

/-- The parameters the vectors of 95_test_vectors.md assume. -/
def vecParams : Params := { rxCap := 1514, txCap := 1514, valCap := 1500, txMinFrameLen := 0, ackStatusOffset := 6 }

/-- A byte string. -/
def bs (l : List Nat) : List Byte := l.map (BitVec.ofNat 8)

/-- `HDR(plen)`, the receive header of 95_test_vectors.md. -/
def hdr (plen : Nat) : List Byte :=
  bs [0x02, 0x00, 0x00, 0x00, 0x00, 0x01, 0x00, 0x1B, 0x1B, 0x12, 0x34, 0x56, 0x88, 0x92, 0xFE, 0xFE, 0x05, 0x01,
    0x12, 0x34, 0x56, 0x78, 0x00, 0x00, plen / 256, plen % 256]

/-- The reset state with a frame loaded. -/
def received (frame : List Byte) : State :=
  { State.reset with rxBuf := Memory.write [] 0 frame, rxLen := BitVec.ofNat 32 frame.length }

/-- The state after `LOAD HDR(plen) ++ pay`, ETHDEC and PKTDEC, as far as the later commands read it. -/
def packet (plen : Nat) (pay : List Nat) : State :=
  { received (hdr plen ++ bs pay) with
    rxStage := .pktOk, rxPlen := BitVec.ofNat 16 plen, rxPavail := BitVec.ofNat 32 pay.length, rxValid := 1 }

/-- The same after ITSTART. -/
def walking (plen : Nat) (pay : List Nat) : State :=
  { packet plen pay with itState := .ready, itRem := BitVec.ofNat 16 plen }

/-- What a state after a step shows, if the step answers one. -/
def after {α : Type} (r : Result) (f : State → α) : Option α :=
  match r with
  | .next t => some (f t)
  | .fault _ => none
  | .refused _ => none

/-- The block (2,2) "plc-1" of vector BLK-1. -/
def plcBlock : List Nat := [0x02, 0x02, 0x00, 0x07, 0x00, 0x00, 0x70, 0x6C, 0x63, 0x2D, 0x31, 0x00]

/-! ### Decoding: the opcodes of 30_encoding.md R82, bit by bit -/

theorem test_decode_nop : decodeTableWord 8 0b00000000 = some .nop := by decide
theorem test_decode_u16enc : decodeTableWord 8 0b00000001 = some .u16enc := by decide
theorem test_decode_u16dec : decodeTableWord 8 0b00000010 = some .u16dec := by decide
theorem test_decode_u32enc : decodeTableWord 8 0b00000011 = some .u32enc := by decide
theorem test_decode_u32dec : decodeTableWord 8 0b00000100 = some .u32dec := by decide
theorem test_decode_rxrd8 : decodeTableWord 8 0b00000101 = some .rxrd8 := by decide
theorem test_decode_rxrd16 : decodeTableWord 8 0b00000110 = some .rxrd16 := by decide
theorem test_decode_rxrd32 : decodeTableWord 8 0b00000111 = some .rxrd32 := by decide
theorem test_decode_txbuild : decodeTableWord 8 0b00010000 = some .txbuild := by decide
theorem test_decode_ethdec : decodeTableWord 8 0b00100000 = some .ethdec := by decide
theorem test_decode_pktdec : decodeTableWord 8 0b00100001 = some .pktdec := by decide
theorem test_decode_validate : decodeTableWord 8 0b00100010 = some .validate := by decide
theorem test_decode_blkdec : decodeTableWord 8 0b00110000 = some .blkdec := by decide
theorem test_decode_itstart : decodeTableWord 8 0b00110001 = some .itstart := by decide
theorem test_decode_itnext : decodeTableWord 8 0b00110010 = some .itnext := by decide
theorem test_decode_classify : decodeTableWord 8 0b00110011 = some .classify := by decide

/-- 30_encoding.md R83: opcodes outside the table are illegal (those of vector ER-2). -/
theorem test_decode_illegal :
    [0x08, 0x0F, 0x11, 0x23, 0x34, 0xFF].map (decodeTableWord 8) = List.replicate 6 none := by decide

/-- The step runs the fetched word: TXBUILD from reset (vector TX-12). -/
theorem test_fetch_txbuild : after (step (State.reset.withFetchWord 8 0x10)) (fun t => t.cmd) = some 0x10#8 := rfl

/-! ### Well-formedness: a term that each check refuses, and its neighbour that it takes -/

/-- A write of an RW register wider than the register (TX_DELAY has 16 bits). -/
theorem test_wf_write_too_wide : HostOp.wellFormed vecParams (.writeReg 0x16#8 0x10000) = false := by decide
theorem test_wf_write_fits : HostOp.wellFormed vecParams (.writeReg 0x16#8 0xFFFF) = true := by decide

/-- A write of a read-only register wider than the register (RXLEN has 32 bits). -/
theorem test_wf_readonly_too_wide : HostOp.wellFormed vecParams (.writeReg 0x20#8 0x100000000) = false := by decide

/-- A write of CMD wider than its 8 bits. -/
theorem test_wf_command_too_wide : HostOp.wellFormed vecParams (.writeReg 0x00#8 0x100) = false := by decide

/-- A VALBUF write past VAL_CAP, and the last byte in range. -/
theorem test_wf_writeVal_past_end : HostOp.wellFormed vecParams (.writeVal 1500 [0x61#8]) = false := by decide
theorem test_wf_writeVal_last : HostOp.wellFormed vecParams (.writeVal 1499 [0x61#8]) = true := by decide

/-- A direct read of RXBUF: no row of R205's table (log 9). -/
theorem test_wf_readRx : HostOp.wellFormed vecParams (.readRx 0 1) = false := by decide

/-- A frame longer than RX_CAP. -/
theorem test_wf_load_too_long :
    HostOp.wellFormed { vecParams with rxCap := 26 } (.load (List.replicate 27 0#8)) = false := by decide

/-! ### Registers and codes -/

/-- 10_state.md R22: 48 registers under 48 numbers, and a reserved number. -/
theorem test_register_numbers : Reg.all.length = 48 ∧ (Reg.all.map Reg.number).Nodup ∧ Reg.ofNumber 0x41#8 = none := by
  decide

/-- 60_exceptions.md R205: a read-only register ignores a write of its width, and a wider value gets no step. -/
theorem test_write_readonly : hostWriteReg 0x20#8 0xFFFFFFFF State.reset = .next State.reset := rfl
theorem test_write_readonly_too_wide :
    hostWriteReg 0x20#8 0x100000000 State.reset = .refused (.valueTooWide .rxLen) := rfl

/-- 60_exceptions.md R205: a direct read of RXBUF gets no step; the host reads its last valid byte through RXRD8 (INT-13). -/
theorem test_readRx_refused : hostStep (.readRx 0 1) (received (hdr 0)) = .refused (.notInTable .rx) := rfl
theorem test_readRxByteOps : after (hostRun (readRxByteOps 17) (received (hdr 0))) (fun t => t.reply) =
    some (.value 1) := by decide

/-- A VALBUF write and the length register (30_encoding.md R85, `WRVAL`). -/
theorem test_writeVal_stores :
    after (hostWriteVal vecParams 3 (bs [0x61, 0x62]) State.reset) (fun t => t.valBuf) =
      some [(3, 0x61#8), (4, 0x62#8)] := by
  decide

/-- A byte over a byte, and a byte below it: the buffer stays in canonical form (log 6). -/
theorem test_memory_canonical : Memory.write [(5, 1#8)] 4 (bs [7, 9]) = [(4, 7#8), (5, 9#8)] := by decide

/-! ### One step of each command (95_test_vectors.md; at most two for a command) -/

/-- ER-1. -/
theorem test_nop : after (exec .nop { State.reset with err := .blkOverrun, res := 5 }) (fun t => (t.err, t.res)) =
    some (.ok, 5#32) := rfl

/-- INT-2. -/
theorem test_u16enc : after (exec .u16enc { State.reset with arg := 0x12345678 })
    (fun t => (t.byte0, t.byte1, t.byte2)) = some (0x56#8, 0x78#8, 0#8) := rfl

/-- INT-3. -/
theorem test_u16dec : after (exec .u16dec { State.reset with byte0 := 0xFE, byte1 := 0xFD }) (fun t => t.res) =
    some 0xFEFD#32 := by decide

/-- INT-5. -/
theorem test_u32enc : after (exec .u32enc { State.reset with arg := 0x12345678 }) State.window =
    some (bs [0x12, 0x34, 0x56, 0x78]) := by decide

/-- INT-8. -/
theorem test_u32dec :
    after (exec .u32dec { State.reset with byte0 := 0xDE, byte1 := 0xAD, byte2 := 0xBE, byte3 := 0xEF })
      (fun t => t.res) = some 0xDEADBEEF#32 := by decide

/-- INT-13 and INT-14: the last valid byte, and the one after it. -/
theorem test_rxrd8_last : after (exec .rxrd8 { received (hdr 0) with arg := 25, res := 7 })
    (fun t => (t.err, t.res)) = some (.ok, 0#32) := by decide
theorem test_rxrd8_past_end : after (exec .rxrd8 { received (hdr 0) with arg := 26, res := 7 })
    (fun t => (t.err, t.res)) = some (.rxOob, 7#32) := by decide

/-- INT-9 and INT-12. -/
theorem test_rxrd16 : after (exec .rxrd16 { received (hdr 0) with arg := 12 }) (fun t => t.res) =
    some 0x8892#32 := by decide
theorem test_rxrd16_past_end : after (exec .rxrd16 { received (hdr 0) with arg := 25 }) (fun t => t.err) =
    some .rxOob := by decide

/-- INT-16, and INT-18's address, where ARG + 4 would wrap in 32 bits. -/
theorem test_rxrd32 : after (exec .rxrd32 { received (hdr 0) with arg := 18 }) (fun t => t.res) =
    some 0x12345678#32 := by decide
theorem test_rxrd32_no_wrap : after (exec .rxrd32 { received (hdr 0) with arg := 0xFFFFFFFF }) (fun t => t.err) =
    some .rxOob := by decide

/-- The transmit registers of vectors TX-2 to TX-11, with the value byte 0x61. -/
def request : State :=
  { State.reset with
    txDst := 0x001B1B123456, txSrc := 0x020000000001, txFrameId := 0xFEFD, txServiceId := 4, txXid := 0x12345678,
    txOpt := 2, txSub := 2, valLen := 1, valBuf := [(0, 0x61#8)] }

/-- TX-2. -/
theorem test_txbuild : after (txbuild vecParams request) (fun t => (t.txLen, t.memRead .tx 0 32)) =
    some (32#32, bs [0x00, 0x1B, 0x1B, 0x12, 0x34, 0x56, 0x02, 0x00, 0x00, 0x00, 0x00, 0x01, 0x88, 0x92, 0xFE, 0xFD,
      0x04, 0x00, 0x12, 0x34, 0x56, 0x78, 0x00, 0x00, 0x00, 0x06, 0x02, 0x02, 0x00, 0x01, 0x61, 0x00]) := by
  decide

/-- TX-6: only ERR is written. -/
theorem test_txbuild_overflow :
    txbuild { vecParams with txCap := 30 } request = .next { request with err := .txOverflow } := rfl

/-- RX-4's first command, and RX-8: a tagged frame writes the envelope registers. -/
theorem test_ethdec : after (exec .ethdec (received (hdr 0)))
    (fun t => (t.err, t.rxStage, t.rxDst, t.rxSrc, t.rxEtype)) =
      some (.ok, .ethOk, 0x020000000001#48, 0x001B1B123456#48, 0x8892#16) := by decide
theorem test_ethdec_foreign :
    after (exec .ethdec (received (hdr 0 |>.set 12 0x81#8 |>.set 13 0x00#8)))
      (fun t => (t.err, t.rxStage, t.rxDst, t.rxEtype)) =
        some (.etherType, .none, 0x020000000001#48, 0x8100#16) := by decide

/-- P2's PKTDEC registers, and RX-2. -/
theorem test_pktdec : after (exec .pktdec { received (hdr 12 ++ bs plcBlock) with rxStage := .ethOk })
    (fun t => (t.rxStage, t.rxFrameId, t.rxXid, t.rxPlen, t.rxPavail)) =
      some (.pktOk, 0xFEFE#16, 0x12345678#32, 12#16, 12#32) := by decide
theorem test_pktdec_short : after (exec .pktdec { received ((hdr 0).take 14) with rxStage := .ethOk })
    (fun t => (t.err, t.rxStage)) = some (.pktShort, .ethOk) := by decide

/-- RX-5 and RX-11. -/
theorem test_validate : after (exec .validate { State.reset with rxStage := .pktOk, rxValid := 1 })
    (fun t => (t.err, t.res)) = some (.ok, 1#32) := by decide
theorem test_validate_request : after (exec .validate { State.reset with rxStage := .pktOk, res := 9 })
    (fun t => (t.err, t.res)) = some (.notResponse, 0#32) := by decide

/-- BLK-1 and BLK-8. -/
theorem test_blkdec : after (exec .blkdec (packet 12 plcBlock))
    (fun t => (t.res, t.blk.len, t.blk.voff, t.blk.vlen, t.blk.cons)) =
      some (12#32, 7#16, 32#32, 5#16, 12#17) := by decide
theorem test_blkdec_truncated :
    exec .blkdec (packet 8 [0x02, 0x02, 0x00, 0x07, 0x00, 0x00, 0x61, 0x62]) =
      .next { packet 8 [0x02, 0x02, 0x00, 0x07, 0x00, 0x00, 0x61, 0x62] with err := .blkValTrunc } := rfl

/-- R171's example. -/
theorem test_itstart : after (exec .itstart { packet 12 plcBlock with itCur := 3, itNblk := 2, res := 1 })
    (fun t => (t.itState, t.itCur, t.itRem, t.itNblk, t.res)) = some (.ready, 0#16, 12#16, 0#16, 0#32) := by decide

/-- IT-3's first turn, and IT-10. -/
theorem test_itnext : after (exec .itnext (walking 12 plcBlock))
    (fun t => (t.res, t.itState, t.itCur, t.itRem, t.itNblk)) =
      some (1#32, .block, 12#16, 0#16, 1#16) := by decide
theorem test_itnext_overrun : after (exec .itnext (walking 11 plcBlock))
    (fun t => (t.err, t.itState, t.itCur, t.itRem, t.blk)) =
      some (.blkOverrun, .error, 0#16, 11#16, BlockRegs.zero) := by decide

/-- CL-3, and CL-7. -/
theorem test_classify : after (exec .classify (packet 8 [0x05, 0x04, 0x00, 0x03, 0x02, 0x02, 0x63, 0x00]))
    (fun t => (t.err, t.res, t.kind, t.ackStatus, t.ackKnown)) = some (.ok, 2#32, .ack, 0x63#8, 0#1) := by
  decide
theorem test_classify_ack_oob : after (exec .classify (packet 8 [0x05, 0x04, 0x00, 0x02, 0x00, 0x00]))
    (fun t => (t.err, t.kind)) = some (.ackOob, .none) := by decide

/-! ### A state and operands that meet the hypotheses of each obligation -/

/-- StepRunsDecodedCommand. -/
theorem witness_StepRunsDecodedCommand :
    decode 0x33#8 = .ok .classify ∧ Instr.wellFormed .classify = true ∧
      (State.reset.withFetchWord 8 0x33).hostOps = .writeReg 0x00#8 (0x33#8).toNat :: [] := ⟨rfl, rfl, rfl⟩

/-- StepPerformsNextHostOperation: no operation, and one. -/
theorem witness_StepPerformsNextHostOperation :
    State.reset.hostOps = [] ∧ ({ State.reset with hostOps := [.reset] } : State).hostOps = HostOp.reset :: [] :=
  ⟨rfl, rfl⟩

/-- IllegalOpcodeSetsErrOnly: the ends of each range. -/
theorem witness_IllegalOpcodeSetsErrOnly :
    ∀ c ∈ [0x08, 0x0F, 0x11, 0x1F, 0x23, 0x2F, 0x34, 0xFF],
      (0x08 ≤ c ∧ c ≤ 0x0F) ∨ (0x11 ≤ c ∧ c ≤ 0x1F) ∨ (0x23 ≤ c ∧ c ≤ 0x2F) ∨ (0x34 ≤ c ∧ c ≤ 0xFF) := by decide

/-- RxReadsAreBoundedAndBigEndian: the last address in range and the first out of it, for 1, 2 and 4 bytes. -/
theorem witness_RxReads_in_range : ∀ p ∈ [(25, 1), (24, 2), (22, 4)],
    ({ received (hdr 0) with arg := BitVec.ofNat 32 p.1 } : State).arg.toNat + p.2 ≤
      (received (hdr 0)).rxLen.toNat := by decide
theorem witness_RxReads_out_of_range : ∀ p ∈ [(26, 1), (25, 2), (23, 4)],
    (received (hdr 0)).rxLen.toNat <
      ({ received (hdr 0) with arg := BitVec.ofNat 32 p.1 } : State).arg.toNat + p.2 := by decide

/-- BlockParserChecksAndFields, its four clauses at offset 0: 3 bytes; 4 bytes with len 1; 5 bytes with len 2; 6 bytes
with len 2. -/
theorem witness_BlockParser_header : (packet 3 [2, 2, 0]).rxPavail.toNat < 0 + 4 := by decide
theorem witness_BlockParser_small :
    0 + 4 ≤ (packet 4 [2, 2, 0, 1]).rxPavail.toNat ∧
      256 * ((packet 4 [2, 2, 0, 1]).rxByte (26 + 0 + 2)).toNat +
        ((packet 4 [2, 2, 0, 1]).rxByte (26 + 0 + 3)).toNat < 2 := by decide
theorem witness_BlockParser_value :
    0 + 4 ≤ (packet 5 [2, 2, 0, 2, 0]).rxPavail.toNat ∧
      2 ≤ 256 * ((packet 5 [2, 2, 0, 2, 0]).rxByte (26 + 0 + 2)).toNat +
        ((packet 5 [2, 2, 0, 2, 0]).rxByte (26 + 0 + 3)).toNat ∧
      (packet 5 [2, 2, 0, 2, 0]).rxPavail.toNat < 0 + 4 +
        (256 * ((packet 5 [2, 2, 0, 2, 0]).rxByte (26 + 0 + 2)).toNat +
          ((packet 5 [2, 2, 0, 2, 0]).rxByte (26 + 0 + 3)).toNat) := by decide
theorem witness_BlockParser_ok :
    2 ≤ 256 * ((packet 6 [2, 2, 0, 2, 0, 0]).rxByte (26 + 0 + 2)).toNat +
        ((packet 6 [2, 2, 0, 2, 0, 0]).rxByte (26 + 0 + 3)).toNat ∧
      0 + 4 + (256 * ((packet 6 [2, 2, 0, 2, 0, 0]).rxByte (26 + 0 + 2)).toNat +
        ((packet 6 [2, 2, 0, 2, 0, 0]).rxByte (26 + 0 + 3)).toNat) ≤
          (packet 6 [2, 2, 0, 2, 0, 0]).rxPavail.toNat ∧
      26 + (packet 6 [2, 2, 0, 2, 0, 0]).rxPavail.toNat < 2 ^ 32 := by decide

/-- BlkdecParsesBlockAtArg: not decoded; a block that does not parse; one that does, at an odd offset (BLK-4). -/
theorem witness_Blkdec_sequence : State.reset.rxStage ≠ .pktOk := by decide
theorem witness_Blkdec_error :
    (packet 3 [2, 2, 0]).rxStage = .pktOk ∧
      26 + (packet 3 [2, 2, 0]).rxPavail.toNat ≤ (packet 3 [2, 2, 0]).rxLen.toNat ∧
      (packet 3 [2, 2, 0]).blockAt (packet 3 [2, 2, 0]).arg.toNat = .error .blkHdrTrunc := ⟨rfl, by decide, rfl⟩
theorem witness_Blkdec_ok :
    (packet 9 [0, 2, 2, 0, 3, 0, 0, 0x61, 0]).rxStage = .pktOk ∧
      26 + (packet 9 [0, 2, 2, 0, 3, 0, 0, 0x61, 0]).rxPavail.toNat ≤
        (packet 9 [0, 2, 2, 0, 3, 0, 0, 0x61, 0]).rxLen.toNat ∧
      ∃ r, ({ packet 9 [0, 2, 2, 0, 3, 0, 0, 0x61, 0] with arg := 1 } : State).blockAt 1 = .ok r :=
  ⟨rfl, by decide, _, rfl⟩

/-- ParserRecoversResponseLayout: the empty value, an odd value, the longest value. -/
theorem witness_ParserRecoversResponseLayout :
    ([] : List Byte).length ≤ 65533 ∧ [0x61#8].length % 2 = 1 ∧ (List.replicate 65533 0x61#8).length ≤ 65533 :=
  ⟨Nat.zero_le _, rfl, Nat.le_of_eq List.length_replicate⟩

/-- TxbuildUnderAnyParameters: each check at the first length it refuses, and a frame that fills TXBUF (TX-7, TX-8, TX-6,
and TX-2 with TX_CAP = 32). -/
theorem witness_Txbuild_val :
    ({ vecParams with valCap := 4 } : Params).ok ∧
      ({ vecParams with valCap := 4 } : Params).valCap < ({ request with valLen := 5 } : State).valLen.toNat := by
  decide
theorem witness_Txbuild_payload :
    ({ vecParams with valCap := 65535 } : Params).ok ∧
      ({ request with valLen := 65531 } : State).valLen.toNat ≤ ({ vecParams with valCap := 65535 } : Params).valCap ∧
      65531 ≤ ({ request with valLen := 65531 } : State).valLen.toNat := by decide
theorem witness_Txbuild_overflow :
    ({ vecParams with txCap := 31 } : Params).ok ∧ request.valLen.toNat ≤ vecParams.valCap ∧
      request.valLen.toNat < 65531 ∧
      ({ vecParams with txCap := 31 } : Params).txCap <
        max (26 + (4 + request.valLen.toNat + request.valLen.toNat % 2)) vecParams.txMinFrameLen := by decide
theorem witness_Txbuild_ok :
    ({ vecParams with txCap := 32 } : Params).ok ∧ request.valLen.toNat ≤ vecParams.valCap ∧
      request.valLen.toNat < 65531 ∧
      max (26 + (4 + request.valLen.toNat + request.valLen.toNat % 2)) vecParams.txMinFrameLen ≤
        ({ vecParams with txCap := 32 } : Params).txCap := by decide

/-- TxbuildCompletes: an empty value fits every machine. -/
theorem witness_TxbuildCompletes :
    State.reset.valLen.toNat ≤ Config.params.valCap ∧ State.reset.valLen.toNat < 65531 ∧
      30 + State.reset.valLen.toNat + State.reset.valLen.toNat % 2 ≤ Config.params.txCap :=
  ⟨Nat.zero_le _, by decide, Config.params_ok.2.2.1⟩

/-- EthdecDecodesEnvelope: 13 bytes and 14 bytes. -/
theorem witness_Ethdec :
    (received ((hdr 0).take 13)).rxLen.toNat < 14 ∧ 14 ≤ (received ((hdr 0).take 14)).rxLen.toNat := by decide

/-- PktdecDecodesHeader: not decoded; 25 bytes; 26 bytes. -/
theorem witness_Pktdec :
    State.reset.rxStage = .none ∧
      (({ received ((hdr 0).take 25) with rxStage := .ethOk } : State).rxStage ≠ .none ∧
        (received ((hdr 0).take 25)).rxLen.toNat < 26) ∧
      (({ received (hdr 0) with rxStage := .ethOk } : State).rxStage ≠ .none ∧
        26 ≤ (received (hdr 0)).rxLen.toNat) := by decide

/-- ValidateReportsValidity: not decoded; a response and a request, each with RX_VALID as PKTDEC writes it. -/
theorem witness_Validate : State.reset.rxStage ≠ .pktOk ∧ (packet 0 []).rxStage = .pktOk := by decide
theorem witness_Validate_bit : ∀ s ∈ [{ packet 0 [] with rxServiceType := 1 }, { packet 0 [] with rxValid := 0 }],
    s.rxStage = .pktOk ∧ s.rxValid = (if s.rxServiceType = 1#8 then 1#1 else 0#1) := by decide

/-- ValidateAcceptsServiceTypeOneOnly: a response, and the same frame with the service type of a request. -/
theorem witness_ValidateAccepts_response :
    26 ≤ (received (hdr 0)).rxLen.toNat ∧ (received (hdr 0)).rxByte 12 = 0x88#8 ∧
      (received (hdr 0)).rxByte 13 = 0x92#8 ∧ (received (hdr 0)).rxByte 17 = 1#8 := by decide
theorem witness_ValidateAccepts_request :
    26 ≤ (received ((hdr 0).set 17 0#8)).rxLen.toNat ∧ (received ((hdr 0).set 17 0#8)).rxByte 12 = 0x88#8 ∧
      (received ((hdr 0).set 17 0#8)).rxByte 13 = 0x92#8 ∧ (received ((hdr 0).set 17 0#8)).rxByte 17 ≠ 1#8 := by
  decide

/-- BuiltFrameRoundTrips. -/
theorem witness_BuiltFrameRoundTrips :
    vecParams.ok ∧ ∃ t, txbuild vecParams request = .next t ∧ t.err = .ok ∧ t.txLen.toNat ≤ vecParams.rxCap :=
  ⟨by decide, _, rfl, rfl, by decide⟩

/-- ItstartStartsWalk. -/
theorem witness_Itstart : State.reset.rxStage ≠ .pktOk ∧ (packet 12 plcBlock).rxStage = .pktOk := by decide

/-- ItnextTakesOneTurn: no walk; a walk that ended; 6 bytes left; a block that does not parse (IT-8); a span one above
what is left (IT-10); a span that is all that is left (IT-3). -/
theorem witness_Itnext_sequence : State.reset.itState = .idle ∨ State.reset.itState = .error := by decide
theorem witness_Itnext_done :
    (walking 6 [5, 4, 0, 2, 0, 0]).itState ≠ .idle ∧ (walking 6 [5, 4, 0, 2, 0, 0]).itState ≠ .error ∧
      (walking 6 [5, 4, 0, 2, 0, 0]).itRem.toNat ≤ 6 := by decide
theorem witness_Itnext_error :
    (walking 36 [2, 2, 0, 0x20, 0, 0, 0x61]).itState = .ready ∧
      6 < (walking 36 [2, 2, 0, 0x20, 0, 0, 0x61]).itRem.toNat ∧
      26 + (walking 36 [2, 2, 0, 0x20, 0, 0, 0x61]).rxPavail.toNat ≤
        (walking 36 [2, 2, 0, 0x20, 0, 0, 0x61]).rxLen.toNat ∧
      (walking 36 [2, 2, 0, 0x20, 0, 0, 0x61]).blockAt 0 = .error .blkValTrunc :=
  ⟨rfl, by decide, by decide, rfl⟩
theorem witness_Itnext_overrun :
    6 < (walking 11 plcBlock).itRem.toNat ∧
      26 + (walking 11 plcBlock).rxPavail.toNat ≤ (walking 11 plcBlock).rxLen.toNat ∧
      ∃ r, (walking 11 plcBlock).blockAt 0 = .ok r ∧ (walking 11 plcBlock).itRem.toNat < r.cons.toNat :=
  ⟨by decide, by decide, _, rfl, by decide⟩
theorem witness_Itnext_block :
    6 < (walking 12 plcBlock).itRem.toNat ∧
      26 + (walking 12 plcBlock).rxPavail.toNat ≤ (walking 12 plcBlock).rxLen.toNat ∧
      (walking 12 plcBlock).itCur.toNat + (walking 12 plcBlock).itRem.toNat ≤ 65535 ∧
      (walking 12 plcBlock).itNblk.toNat < 65535 ∧
      ∃ r, (walking 12 plcBlock).blockAt 0 = .ok r ∧ r.cons.toNat ≤ (walking 12 plcBlock).itRem.toNat :=
  ⟨by decide, by decide, by decide, by decide, _, rfl, by decide⟩

/-- ClassifyUnderAnyParameters and ClassifyCompletes: not decoded; RX_PLEN = 6; a block that does not parse (CL-8); an
overrun (CL-9); another option (CL-10); a status byte just missing (CL-7); the last payload byte as status byte. -/
theorem witness_Classify_sequence : State.reset.rxStage ≠ .pktOk := by decide
theorem witness_Classify_short :
    (packet 6 [5, 4, 0, 2, 0, 0]).rxStage = .pktOk ∧ (packet 6 [5, 4, 0, 2, 0, 0]).rxPlen.toNat ≤ 6 := by decide
theorem witness_Classify_error :
    6 < (packet 8 [5, 4, 0, 3, 2, 2]).rxPlen.toNat ∧
      26 + (packet 8 [5, 4, 0, 3, 2, 2]).rxPavail.toNat ≤ (packet 8 [5, 4, 0, 3, 2, 2]).rxLen.toNat ∧
      (packet 8 [5, 4, 0, 3, 2, 2]).blockAt 0 = .error .blkValTrunc := ⟨by decide, by decide, rfl⟩
theorem witness_Classify_overrun :
    6 < (packet 7 [5, 4, 0, 3, 2, 2, 4, 0]).rxPlen.toNat ∧
      26 + (packet 7 [5, 4, 0, 3, 2, 2, 4, 0]).rxPavail.toNat ≤ (packet 7 [5, 4, 0, 3, 2, 2, 4, 0]).rxLen.toNat ∧
      ∃ r, (packet 7 [5, 4, 0, 3, 2, 2, 4, 0]).blockAt 0 = .ok r ∧
        (packet 7 [5, 4, 0, 3, 2, 2, 4, 0]).rxPlen.toNat < r.cons.toNat :=
  ⟨by decide, by decide, _, rfl, by decide⟩
theorem witness_Classify_data :
    6 < (packet 8 [2, 2, 0, 2, 0, 0, 0, 0]).rxPlen.toNat ∧
      26 + (packet 8 [2, 2, 0, 2, 0, 0, 0, 0]).rxPavail.toNat ≤ (packet 8 [2, 2, 0, 2, 0, 0, 0, 0]).rxLen.toNat ∧
      ∃ r, (packet 8 [2, 2, 0, 2, 0, 0, 0, 0]).blockAt 0 = .ok r ∧
        r.cons.toNat ≤ (packet 8 [2, 2, 0, 2, 0, 0, 0, 0]).rxPlen.toNat ∧ r.opt.toNat ≠ 5 ∧ r.opt ≠ 5#8 :=
  ⟨by decide, by decide, _, rfl, by decide⟩
theorem witness_Classify_oob :
    6 < (packet 8 [5, 4, 0, 2, 0, 0]).rxPlen.toNat ∧
      26 + (packet 8 [5, 4, 0, 2, 0, 0]).rxPavail.toNat ≤ (packet 8 [5, 4, 0, 2, 0, 0]).rxLen.toNat ∧
      ∃ r, (packet 8 [5, 4, 0, 2, 0, 0]).blockAt 0 = .ok r ∧
        r.cons.toNat ≤ (packet 8 [5, 4, 0, 2, 0, 0]).rxPlen.toNat ∧ r.opt.toNat = 5 ∧
        (packet 8 [5, 4, 0, 2, 0, 0]).rxPavail.toNat ≤ vecParams.ackStatusOffset :=
  ⟨by decide, by decide, _, rfl, by decide⟩
theorem witness_Classify_ack :
    6 < (packet 8 [5, 4, 0, 3, 2, 2, 4]).rxPlen.toNat ∧
      26 + (packet 8 [5, 4, 0, 3, 2, 2, 4]).rxPavail.toNat ≤ (packet 8 [5, 4, 0, 3, 2, 2, 4]).rxLen.toNat ∧
      ∃ r, (packet 8 [5, 4, 0, 3, 2, 2, 4]).blockAt 0 = .ok r ∧
        r.cons.toNat ≤ (packet 8 [5, 4, 0, 3, 2, 2, 4]).rxPlen.toNat ∧ r.opt.toNat = 5 ∧ r.opt = 5#8 ∧
        vecParams.ackStatusOffset < (packet 8 [5, 4, 0, 3, 2, 2, 4]).rxPavail.toNat ∧
        6 < (packet 8 [5, 4, 0, 3, 2, 2, 4]).rxPavail.toNat :=
  ⟨by decide, by decide, _, rfl, by decide⟩

/-- IteratorAgreesWithWalk. -/
theorem witness_IteratorAgreesWithWalk :
    (packet 12 plcBlock).rxStage = .pktOk ∧
      26 + (packet 12 plcBlock).rxPavail.toNat ≤ (packet 12 plcBlock).rxLen.toNat := by decide

/-- Vector IT-9's two blocks, the first one's pad byte 0xEE, the last one without value bytes. -/
def bareBlocks : List WireBlock :=
  [{ fields := { opt := 2, sub := 2, status := 0, value := bs [0x61] }, pad := 0xEE },
   { fields := { opt := 5, sub := 4, status := 0, value := [] }, pad := 0 }]

/-- The block of plcBlock. -/
def plcWireBlock : WireBlock :=
  { fields := { opt := 2, sub := 2, status := 0, value := bs [0x70, 0x6C, 0x63, 0x2D, 0x31] }, pad := 0 }

/-- WalkTraversesWellFormedBlocks: a last block without value bytes, after a pad byte that is not zero (IT-9), and one with
value bytes (IT-3). -/
theorem witness_WalkTraverses_bare :
    (layout bareBlocks).length = (packet 14 [2, 2, 0, 3, 0, 0, 0x61, 0xEE, 5, 4, 0, 2, 0, 0]).rxPlen.toNat ∧
      (packet 14 [2, 2, 0, 3, 0, 0, 0x61, 0xEE, 5, 4, 0, 2, 0, 0]).rxPlen.toNat ≤
        (packet 14 [2, 2, 0, 3, 0, 0, 0x61, 0xEE, 5, 4, 0, 2, 0, 0]).rxPavail.toNat ∧
      ∀ i < (packet 14 [2, 2, 0, 3, 0, 0, 0x61, 0xEE, 5, 4, 0, 2, 0, 0]).rxPlen.toNat,
        (packet 14 [2, 2, 0, 3, 0, 0, 0x61, 0xEE, 5, 4, 0, 2, 0, 0]).payloadByte i =
          byteView (layout bareBlocks) i := by decide
theorem witness_WalkTraverses_value :
    (layout [plcWireBlock]).length = (packet 12 plcBlock).rxPlen.toNat ∧
      (packet 12 plcBlock).rxPlen.toNat ≤ (packet 12 plcBlock).rxPavail.toNat ∧
      ∀ i < (packet 12 plcBlock).rxPlen.toNat,
        (packet 12 plcBlock).payloadByte i = byteView (layout [plcWireBlock]) i := by decide

/-- TrailingBytesAreNotRead: a frame with one byte after the declared payload, and that byte changed; for PKTDEC every
byte after the header changed, for CLASSIFY the walk of an earlier frame left in IT_CUR. -/
theorem witness_TrailingBytesAreNotRead_itnext :
    (walking 12 (plcBlock ++ [9])).itCur.toNat + (walking 12 (plcBlock ++ [9])).itRem.toNat ≤
        (walking 12 (plcBlock ++ [9])).rxPlen.toNat ∧
      (∀ a, a < 26 + (walking 12 (plcBlock ++ [9])).rxPlen.toNat →
        ({ walking 12 (plcBlock ++ [9]) with rxBuf := Memory.write [] 0 (hdr 12 ++ bs (plcBlock ++ [8])) } :
          State).rxByte a = (walking 12 (plcBlock ++ [9])).rxByte a) ∧
      (after (exec .itnext (walking 12 (plcBlock ++ [9]))) fun t => t.err) = some .ok := by decide
theorem witness_TrailingBytesAreNotRead_pktdec :
    (∀ a, a < 26 + 0 → ({ packet 12 plcBlock with rxBuf := Memory.write [] 0 (hdr 12) } : State).rxByte a =
        (packet 12 plcBlock).rxByte a) ∧
      (after (exec .pktdec (packet 12 plcBlock)) fun t => t.err) = some .ok := by decide
theorem witness_TrailingBytesAreNotRead_classify :
    (∀ a, a < 26 + ({ packet 12 (plcBlock ++ [9]) with itCur := 48 } : State).rxPlen.toNat →
        ({ packet 12 (plcBlock ++ [9]) with
            itCur := 48, rxBuf := Memory.write [] 0 (hdr 12 ++ bs (plcBlock ++ [8])) } : State).rxByte a =
          ({ packet 12 (plcBlock ++ [9]) with itCur := 48 } : State).rxByte a) ∧
      (after (exec .classify { packet 12 (plcBlock ++ [9]) with itCur := 48 }) fun t => t.err) = some .ok := by
  decide

/-- CommandsWriteOnlyTheirRegisters: a command that ends in an error, and one that succeeds. -/
theorem witness_CommandsWriteOnlyTheirRegisters :
    exec .blkdec State.reset = .next { State.reset with err := .sequence } ∧
      ∃ t, exec .u32enc State.reset = .next t ∧ t.err = .ok := ⟨rfl, _, rfl, rfl⟩

/-- StepKeepsInvariant, InvariantStatesNeverFault, HostOperationsInRangeComplete: a state that meets the invariant with
NOP as the host's next operation, and a host operation in its range at an empty TXBUF. -/
theorem witness_Inv : Inv Config.params (State.reset.withFetchWord 8 0x00) ∧
    ∃ t, step (State.reset.withFetchWord 8 0x00) = .next t := by
  refine ⟨?_, _, rfl⟩
  constructor <;> simp [State.withFetchWord, State.reset, Memory.wf, Memory.within, Memory.written]
theorem witness_HostOperationsInRangeComplete :
    (HostOp.readTx 0 0).wellFormed Config.params = true ∧
      ∀ a n, HostOp.readTx 0 0 = .readTx a n → a + n ≤ (State.reset.withFetchWord 8 0x00).txLen.toNat := by
  refine ⟨rfl, ?_⟩
  rintro a n h
  cases h
  exact Nat.zero_le _

/-- PowerOnBytesStayHidden: a read of the last valid byte, and TXBUILD with its one value byte written. -/
theorem witness_PowerOn_read :
    (received (hdr 0)).rxBuf.written (received (hdr 0)).rxLen.toNat ∧
      ∃ t, exec .rxrd8 { received (hdr 0) with arg := 25 } = .next t := by
  refine ⟨?_, _, rfl⟩
  unfold Memory.written
  decide
theorem witness_PowerOn_txbuild :
    request.rxBuf.written request.rxLen.toNat ∧ request.valBuf.written request.valLen.toNat ∧
      ∃ t, exec .txbuild request = .next t := by
  refine ⟨?_, ?_, txbuild_answers _ _⟩
  · unfold Memory.written; decide
  · unfold Memory.written; decide

/-- RwRegistersHoldWrittenValue: the widest register at its largest value. -/
theorem witness_RwRegisters : Reg.txDst.access = .readWrite ∧ 2 ^ 48 - 1 < 2 ^ Reg.txDst.width := by decide

/-- ReadOnlyAndReservedNumbers: a read-only number with the largest value of its width, a reserved number. -/
theorem witness_ReadOnlyAndReserved :
    Reg.ofNumber 0x20#8 = some .rxLen ∧ Reg.rxLen.access = .readOnly ∧ 2 ^ 32 - 1 < 2 ^ Reg.rxLen.width ∧
      Reg.ofNumber 0x41#8 = none := by decide

/-- FrameLoadInvalidatesDecode: the empty frame and the longest one. -/
theorem witness_FrameLoad :
    vecParams.ok ∧ ([] : List Byte).length ≤ vecParams.rxCap ∧
      (List.replicate 1514 0#8).length ≤ vecParams.rxCap := by
  refine ⟨by decide, by decide, ?_⟩
  rw [List.length_replicate]
  exact Nat.le_refl _

/-- HostBufferAccesses: the last byte of VALBUF, the whole valid part of TXBUF, the last valid byte of RXBUF. -/
theorem witness_HostBufferAccesses :
    1499 + [0x61#8].length ≤ vecParams.valCap ∧
      0 + 30 ≤ ({ State.reset with txLen := 30 } : State).txLen.toNat ∧
      25 < (received (hdr 0)).rxLen.toNat := by decide

/-- HostOperationsOutOfRangeAreRefused: one byte too many for each. -/
theorem witness_HostOperationsOutOfRange :
    ({ vecParams with rxCap := 26 } : Params).rxCap < (hdr 0 ++ [0#8]).length ∧
      vecParams.valCap < 1500 + [0x61#8].length ∧
      ({ State.reset with txLen := 30 } : State).txLen.toNat < 0 + 31 ∧
      2 ^ Reg.rxLen.width ≤ 2 ^ 32 := by decide

/-- NextFrameDecodesIndependently: an empty frame, the shortest one with an envelope, one with a packet header, each after
two different states. -/
theorem witness_NextFrame : ∀ n ∈ [0, 14, 26], vecParams.ok ∧ ((hdr 0).take n).length = n ∧
    (after (hostLoad vecParams ((hdr 0).take n) State.reset) fun u => u.rxLen.toNat) = some n ∧
    (after (hostLoad vecParams ((hdr 0).take n) (walking 11 plcBlock)) fun u => u.rxLen.toNat) = some n := by
  decide

/-- RxhdrStopsAtFirstError: 13 bytes; a foreign ethertype; 25 bytes; a whole header. -/
theorem witness_Rxhdr :
    (received ((hdr 0).take 13)).rxLen.toNat < 14 ∧
      (14 ≤ (received ((hdr 0).set 12 0x81#8)).rxLen.toNat ∧
        ¬ ((received ((hdr 0).set 12 0x81#8)).rxByte 12 = 0x88#8 ∧
          (received ((hdr 0).set 12 0x81#8)).rxByte 13 = 0x92#8)) ∧
      (14 ≤ (received ((hdr 0).take 25)).rxLen.toNat ∧ (received ((hdr 0).take 25)).rxLen.toNat < 26 ∧
        (received ((hdr 0).take 25)).rxByte 12 = 0x88#8 ∧ (received ((hdr 0).take 25)).rxByte 13 = 0x92#8) ∧
      (26 ≤ (received (hdr 0)).rxLen.toNat ∧ (received (hdr 0)).rxByte 12 = 0x88#8 ∧
        (received (hdr 0)).rxByte 13 = 0x92#8) := by decide

end Sys2Proof.Tests
end

section
/-! PROOFS. Registers by number (10_state.md R22), the command's step (R23), and ERR, which no command reads (R24). -/

namespace Sys2Proof.Machine

open Sys2Proof

/-- Every value read fits the register's width (10_state.md R22). -/
theorem State.getReg_lt (s : State) (r : Reg) : s.getReg r < 2 ^ r.width := by
  cases r <;> exact BitVec.isLt _

/-- An RW register reads as stored: a value of its width is not cut. -/
theorem State.getReg_setReg_same {r : Reg} {v : Nat} (ha : r.access = .readWrite) (hv : v < 2 ^ r.width) (s : State) :
    (s.setReg r v).getReg r = v := by
  cases r <;> cases ha <;> exact Nat.mod_eq_of_lt hv

/-- A store in an RW register is seen through that register only. -/
theorem State.getReg_setReg {r : Reg} (ha : r.access = .readWrite) (q : Reg) (v : Nat) (s : State) :
    (s.setReg r v).getReg q = if q = r then (s.setReg r v).getReg r else s.getReg q := by
  cases r <;> cases ha <;> cases q <;> rfl

/-- A named register is read by its number. -/
theorem State.readReg_of_some {n : Byte} {r : Reg} (h : Reg.ofNumber n = some r) (s : State) :
    s.readReg n = s.getReg r := by
  simp [State.readReg, h]

/-- A reserved number reads 0. -/
theorem State.readReg_of_none {n : Byte} (h : Reg.ofNumber n = none) (s : State) : s.readReg n = 0 := by
  simp [State.readReg, h]

/-- A store in an RW register leaves what every other number reads. -/
theorem State.readReg_setReg_other {r : Reg} (ha : r.access = .readWrite) {n : Byte} (hn : n ≠ r.number) (v : Nat)
    (s : State) : (s.setReg r v).readReg n = s.readReg n := by
  cases hq : Reg.ofNumber n with
  | none => rw [State.readReg_of_none hq, State.readReg_of_none hq]
  | some q =>
    have hqr : q ≠ r := fun h => hn (h ▸ (number_of_ofNumber hq).symm)
    rw [State.readReg_of_some hq, State.readReg_of_some hq, State.getReg_setReg ha, if_neg hqr]

/-- A register store is no buffer write, and it leaves the model's own fields alone (log 1, log 2, log 5). -/
theorem State.setReg_frame (s : State) (r : Reg) (v : Nat) :
    (s.setReg r v).rxBuf = s.rxBuf ∧ (s.setReg r v).txBuf = s.txBuf ∧ (s.setReg r v).valBuf = s.valBuf ∧
      (s.setReg r v).epoch = s.epoch ∧ (s.setReg r v).reply = s.reply ∧ (s.setReg r v).hostOps = s.hostOps := by
  cases r <;> exact ⟨rfl, rfl, rfl, rfl, rfl, rfl⟩

/-- A host write to a read-only register, of a value of its width, has no effect (60_exceptions.md R205). -/
theorem hostWriteReg_readOnly {n : Byte} {r : Reg} {v : Nat} (hn : Reg.ofNumber n = some r) (ha : r.access = .readOnly)
    (hv : v < 2 ^ r.width) (s : State) : hostWriteReg n v s = .next s := by
  simp [hostWriteReg, hn, ha, hv]

/-- A host write to a reserved number has no effect (10_state.md R22; log 11). -/
theorem hostWriteReg_reserved {n : Byte} (hn : Reg.ofNumber n = none) (v : Nat) (s : State) :
    hostWriteReg n v s = .next s := by
  simp [hostWriteReg, hn]

/-- Settles O38: the host's write is `setReg`, whose laws by number are above. -/
theorem rwRegistersHoldWrittenValue : Obligations.RwRegistersHoldWrittenValue := by
  intro s r v ha hv
  refine ⟨s.setReg r v, hostWriteReg_readWrite ha hv s, ?_, fun n hn => State.readReg_setReg_other ha hn v s,
    State.setReg_frame s r v⟩
  rw [State.readReg_of_some (ofNumber_number r), State.getReg_setReg_same ha hv]

/-- Settles O39: a number is reserved or names one register. -/
theorem readOnlyAndReservedNumbers : Obligations.ReadOnlyAndReservedNumbers := by
  intro s n
  refine ⟨rfl, fun hn => ⟨State.readReg_of_none hn s, fun v => hostWriteReg_reserved hn v s⟩, fun r hn => ?_⟩
  refine ⟨number_of_ofNumber hn, ?_, fun ha v hv => hostWriteReg_readOnly hn ha hv s⟩
  rw [State.readReg_of_some hn]
  exact State.getReg_lt s r

/-- Settles O3: the step performs the write to CMD, which issues the command. -/
theorem stepRunsDecodedCommand : Obligations.StepRunsDecodedCommand := by
  intro s c i rest hc _ hs
  calc step s = hostWriteReg 0x00#8 c.toNat (s.takeOp rest) := step_of_operation hs
    _ = issue c (s.takeOp rest) := hostWriteReg_cmd c _
    _ = exec i ((s.takeOp rest).withCmd c) := issue_ok hc _

/-- Settles O31: ERR is in no guard and no operand of a command, and every path of every command writes it. -/
theorem commandsOverwriteErr : Obligations.CommandsOverwriteErr := by
  intro i s e
  cases i <;> rfl

end Sys2Proof.Machine
end

section
/-! PROOFS. The invariant of the reachable states: it holds at reset, each named update keeps it under that update's own
premises, and so each command, each host operation and each step keep it. -/

namespace Sys2Proof.Machine

open Sys2Proof

/-! ### Buffers: addresses that exist, bytes that were written -/

/-- A write inside the buffer leaves only addresses that exist (20_memory.md R60). -/
theorem Memory.within_write {m : Memory} {cap a : Nat} {bytes : List Byte} (hm : m.within cap)
    (h : a + bytes.length ≤ cap) : (m.write a bytes).within cap := by
  intro c hc
  rcases (Memory.mem_keys_write bytes m a c.1).mp (List.mem_map_of_mem hc) with ⟨-, hlt⟩ | hold
  · omega
  · obtain ⟨d, hd, hdc⟩ := List.mem_map.mp hold
    exact hdc ▸ hm d hd

/-- A write from address 0 leaves all its bytes written. -/
theorem Memory.written_write (m : Memory) (bytes : List Byte) : (m.write 0 bytes).written bytes.length := by
  intro a ha
  rw [Memory.read?_write, if_pos ⟨Nat.zero_le a, by omega⟩]
  rfl

/-! ### The block parser's record -/

/-- A block parsed from a payload view that lies in RXBUF's valid bytes has coherent fields: none of them wraps
(10_state.md R32; log 12). -/
theorem blockAt_coherent {s : State} {p : Nat} {r : BlockRegs} (hview : 26 + s.rxPavail.toNat ≤ s.rxLen.toNat)
    (h : s.blockAt p = .ok r) : r.Coherent := by
  obtain ⟨hlen, hfit, rfl⟩ := blockAtView_ok h
  have hrx := s.rxLen.isLt
  have hcons := blockRecord_cons_toNat s.payloadByte p
  have hl := (rd16 s.payloadByte (p + 2)).isLt
  have hpad : (blockRecord s.payloadByte p).pad.toNat = (rd16 s.payloadByte (p + 2)).toNat % 2 := by
    simp [blockRecord, padBit]
  refine ⟨hlen, ?_, ?_, hpad, ?_⟩
  · simp only [blockRecord, BitVec.toNat_ofNat, Config.rxPayloadBase]; omega
  · simp only [blockRecord, BitVec.toNat_ofNat]; omega
  · rw [hcons, hpad]; rfl

/-- A parsed block's consumed span is at least 6 (41_block_codec.md R131). -/
theorem blockAt_cons_ge {s : State} {p : Nat} {r : BlockRegs} (h : s.blockAt p = .ok r) : 6 ≤ r.cons.toNat := by
  obtain ⟨hlen, -, rfl⟩ := blockAtView_ok h
  exact blockRecord_cons_ge hlen

/-! ### The invariant and the named updates -/

/-- The invariant holds after reset, whatever the parameters: every register is 0 and no byte is written. -/
theorem inv_reset (P : Params) : Inv P State.reset where
  rxBuf_wf := State.reset_bufs_wf .rx
  txBuf_wf := State.reset_bufs_wf .tx
  valBuf_wf := State.reset_bufs_wf .val
  rxBuf_within := fun _ h => nomatch h
  txBuf_within := fun _ h => nomatch h
  valBuf_within := fun _ h => nomatch h
  rxLen_le := Nat.zero_le _
  txLen_le := Nat.zero_le _
  rx_written := fun _ h => absurd h (Nat.not_lt_zero _)
  tx_written := fun _ h => absurd h (Nat.not_lt_zero _)
  eth_decoded := fun h => absurd rfl h
  pkt_decoded := fun h => nomatch h
  valid_bit := rfl
  walk_sum := fun h => absurd rfl h
  walk_count := fun h => absurd rfl h
  walk_ready := fun h => nomatch h
  walk_done := fun h => nomatch h
  kind_stage := fun h => absurd rfl h
  kind_data := fun h => nomatch h
  kind_ack := fun h => nomatch h
  blk_coherent := .inl rfl

section

variable {P : Params} {s : State}

/-! ### Updates of fields the invariant does not speak of -/

theorem Inv.setErr (hi : Inv P s) (e : ErrCode) : Inv P (s.setErr e) := { hi with }

theorem Inv.setRes (hi : Inv P s) (v : U32) : Inv P (s.setRes v) := { hi with }

theorem Inv.withCmd (hi : Inv P s) (c : Byte) : Inv P (s.withCmd c) := { hi with }

theorem Inv.takeOp (hi : Inv P s) (rest : List HostOp) : Inv P (s.takeOp rest) := { hi with }

theorem Inv.setReply (hi : Inv P s) (r : Reply) : Inv P (s.setReply r) := { hi with }

theorem Inv.setReg (hi : Inv P s) (r : Reg) (v : Nat) : Inv P (s.setReg r v) := by
  cases r <;> exact { hi with }

/-! ### The receive path -/

/-- Before PKT_OK no walk is started (10_state.md R31). -/
theorem Inv.itState_idle (hi : Inv P s) (hs : s.rxStage ≠ .pktOk) : s.itState = .idle :=
  not_not.mp fun h => hs (hi.walk_sum h).1

/-- Before PKT_OK nothing is classified (10_state.md R33). -/
theorem Inv.kind_none (hi : Inv P s) (hs : s.rxStage ≠ .pktOk) : s.kind = .none :=
  not_not.mp fun h => hs (hi.kind_stage h)

/-- Before PKT_OK RX_VALID is 0 (10_state.md R29). -/
theorem Inv.rxValid_zero (hi : Inv P s) (hs : s.rxStage ≠ .pktOk) : s.rxValid = 0#1 := by
  simpa [hs] using hi.valid_bit

/-- The decode dropped to NONE, or to ETH_OK where an envelope was decoded (42_frame_codec.md R151, R152). -/
theorem Inv.dropDecode (hi : Inv P s) {g : RxStage} (hp : g ≠ .pktOk) (hg : g ≠ .none → s.rxStage ≠ .none) :
    Inv P (s.dropDecode g) :=
  { hi with
    eth_decoded := fun h => hi.eth_decoded (hg h)
    pkt_decoded := fun h => absurd h hp
    valid_bit := by simp [hp]
    walk_sum := fun h => absurd rfl h
    walk_count := fun h => absurd rfl h
    walk_ready := fun h => nomatch h
    walk_done := fun h => nomatch h
    kind_stage := fun h => absurd rfl h
    kind_data := fun h => nomatch h
    kind_ack := fun h => nomatch h }

/-- Envelope registers written while no envelope counts as decoded (42_frame_codec.md R151). -/
theorem Inv.setEnvelope (hi : Inv P s) (hs : s.rxStage = .none) (dst src : Addr48) (etype : U16) :
    Inv P (s.setEnvelope dst src etype) :=
  { hi with eth_decoded := fun h => absurd hs h }

/-- ETH_OK reached: the frame holds an envelope with the ethertype 0x8892 (10_state.md R28). -/
theorem Inv.setStage_ethOk (hi : Inv P s) (hs : s.rxStage ≠ .pktOk) (hlen : 14 ≤ s.rxLen.toNat)
    (het : s.rxEtype = 0x8892#16) : Inv P (s.setStage .ethOk) :=
  { hi with
    eth_decoded := fun _ => ⟨hlen, het⟩
    pkt_decoded := fun h => nomatch h
    valid_bit := hi.rxValid_zero hs
    walk_sum := fun h => absurd (hi.itState_idle hs) h
    kind_stage := fun h => absurd (hi.kind_none hs) h }

/-- PKT_OK reached: the header registers, RX_PAVAIL and RX_VALID are those of the frame in RXBUF (10_state.md R29,
42_frame_codec.md R152). -/
theorem Inv.setHeader_pktOk (hi : Inv P s) (hs : s.rxStage = .ethOk) (hlen : 26 ≤ s.rxLen.toNat) :
    Inv P (s.setHeader.setStage .pktOk) := by
  have hnp : s.rxStage ≠ .pktOk := by rw [hs]; decide
  have hne : s.rxStage ≠ .none := by rw [hs]; decide
  exact
    { hi with
      eth_decoded := fun _ => hi.eth_decoded hne
      pkt_decoded := fun _ => by
        have hrx := s.rxLen.isLt
        simp only [State.setStage_rxPavail, State.setStage_rxLen, State.setHeader, Config.rxPayloadBase,
          BitVec.toNat_ofNat]
        omega
      valid_bit := by
        by_cases h17 : s.rxByte 17 = 1#8 <;> simp [validBit, Config.serviceTypeResponse, h17]
      walk_sum := fun h => absurd (hi.itState_idle hnp) h
      kind_stage := fun _ => rfl }

/-- A frame stored in RXBUF while nothing is decoded (60_exceptions.md R206). -/
theorem Inv.storeRx (hi : Inv P s) (hP : P.ok) (hs : s.rxStage = .none) {frame : List Byte}
    (hlen : frame.length ≤ P.rxCap) : Inv P (s.storeRx frame) := by
  have hn : (BitVec.ofNat 32 frame.length).toNat = frame.length := by
    obtain ⟨-, hcap, -⟩ := hP
    rw [BitVec.toNat_ofNat]; omega
  exact
    { hi with
      rxBuf_wf := Memory.wf_write frame hi.rxBuf_wf 0
      rxBuf_within := Memory.within_write hi.rxBuf_within (by omega)
      rxLen_le := hn.trans_le hlen
      rx_written := hn.symm ▸ Memory.written_write s.rxBuf frame
      eth_decoded := fun h => absurd hs h
      pkt_decoded := fun h => nomatch hs.symm.trans h }

/-! ### The transmit path -/

/-- A frame stored in TXBUF with its length (42_frame_codec.md R150). -/
theorem Inv.storeFrame (hi : Inv P s) {frame : List Byte} {total : U32} (hn : total.toNat = frame.length)
    (hlen : frame.length ≤ P.txCap) : Inv P (s.storeFrame frame total) :=
  { hi with
    txBuf_wf := Memory.wf_write frame hi.txBuf_wf 0
    txBuf_within := Memory.within_write hi.txBuf_within (by omega)
    txLen_le := hn.trans_le hlen
    tx_written := hn.symm ▸ Memory.written_write s.txBuf frame }

/-- Value bytes stored inside VALBUF (60_exceptions.md R205). -/
theorem Inv.storeVal (hi : Inv P s) {a : Nat} {bytes : List Byte} (h : a + bytes.length ≤ P.valCap) :
    Inv P (s.storeVal a bytes) :=
  { hi with
    valBuf_wf := Memory.wf_write bytes hi.valBuf_wf a
    valBuf_within := Memory.within_write hi.valBuf_within h }

/-! ### Blocks, the walk and the classification -/

/-- A decoded block written to the BLK_ registers (10_state.md R32). -/
theorem Inv.setBlk (hi : Inv P s) {r : BlockRegs} (hr : r.Coherent) : Inv P (s.setBlk r) :=
  { hi with blk_coherent := .inr hr }

/-- The walk set up at its first block (43_iterator.md R171). -/
theorem Inv.startWalk (hi : Inv P s) (hs : s.rxStage = .pktOk) : Inv P s.startWalk :=
  { hi with
    walk_sum := fun _ => ⟨hs, Nat.zero_add _⟩
    walk_count := fun _ => Nat.le_refl 0
    walk_ready := fun _ => ⟨rfl, rfl⟩
    walk_done := fun h => nomatch h }

/-- A started walk ended: at DONE at most 6 bytes are left (43_iterator.md R172, R176). -/
theorem Inv.setItState (hi : Inv P s) (hs : s.itState ≠ .idle) {i : ItState} (hr : i ≠ .ready)
    (hd : i = .done → s.itRem.toNat ≤ 6) : Inv P (s.setItState i) :=
  { hi with
    walk_sum := fun _ => hi.walk_sum hs
    walk_count := fun _ => hi.walk_count hs
    walk_ready := fun h => absurd h hr
    walk_done := hd }

/-- A block yielded: its span moves from IT_REM to IT_CUR, and the count stays at one for each 6 bytes of the cursor
(43_iterator.md R172). -/
theorem Inv.yieldBlock (hi : Inv P s) (hs : s.itState ≠ .idle) {r : BlockRegs} (hr : r.Coherent)
    (hge : 6 ≤ r.cons.toNat) (hle : r.cons.toNat ≤ s.itRem.toNat) : Inv P (s.yieldBlock r) := by
  obtain ⟨hstage, hsum⟩ := hi.walk_sum hs
  have hcount := hi.walk_count hs
  have hplen := s.rxPlen.isLt
  have hcur : (s.yieldBlock r).itCur.toNat = s.itCur.toNat + r.cons.toNat := by
    rw [State.yieldBlock_itCur, BitVec.toNat_ofNat]; omega
  have hrem : (s.yieldBlock r).itRem.toNat = s.itRem.toNat - r.cons.toNat := by
    rw [State.yieldBlock_itRem, BitVec.toNat_ofNat]; omega
  have hnblk : (s.yieldBlock r).itNblk.toNat ≤ s.itNblk.toNat + 1 := by
    rw [State.yieldBlock_itNblk, BitVec.toNat_add]; exact Nat.mod_le _ _
  exact
    { hi with
      walk_sum := fun _ => ⟨hstage, by rw [hcur, hrem, State.yieldBlock_rxPlen]; omega⟩
      walk_count := fun _ => by omega
      walk_ready := fun h => nomatch h
      walk_done := fun h => nomatch h
      blk_coherent := .inr hr }

/-- KIND, ACK_STATUS and ACK_KNOWN written for a decoded packet (10_state.md R33). -/
theorem Inv.setClass (hi : Inv P s) (hs : s.rxStage = .pktOk) {k : Kind} {status : Byte} {known : BitVec 1}
    (hd : k = .deviceData → status = 0#8 ∧ known = 0#1)
    (ha : k = .ack → known = if status.toNat ≤ 6 then 1#1 else 0#1) : Inv P (s.setClass k status known) :=
  { hi with
    kind_stage := fun _ => hs
    kind_data := hd
    kind_ack := ha }

/-- KIND dropped to NONE (43_iterator.md R173). -/
theorem Inv.setKind_none (hi : Inv P s) : Inv P (s.setKind .none) :=
  { hi with
    kind_stage := fun h => absurd rfl h
    kind_data := fun h => nomatch h
    kind_ack := fun h => nomatch h }

/-! ### The commands -/

/-- A bounded read of the frame writes RES and ERR only (40_int_codec.md R119 to R121). -/
theorem rxRead_keeps_inv (hi : Inv P s) (n : Nat) (value : U32) : Inv P (s.rxRead n value) := by
  rcases rxRead_cases s n value with ⟨-, he⟩ | ⟨-, he⟩
  · exact he ▸ hi.setErr _
  · exact he ▸ (hi.setRes _).setErr _

variable {t : State}

/-- TXBUILD stores a frame that fits TXBUF, with its exact length (42_frame_codec.md R150). -/
theorem txbuild_keeps_inv (hP : P.ok) (hi : Inv P s) (h : txbuild P s = .next t) : Inv P t := by
  rcases txbuild_cases h with ⟨rfl, -⟩ | ⟨rfl, -, -⟩ | ⟨rfl, -, -, -⟩ | ⟨rfl, -, -, hfit⟩
  · exact hi.setErr _
  · exact hi.setErr _
  · exact hi.setErr _
  · obtain ⟨-, -, -, hcap, -, -⟩ := hP
    have hn : (s.txTotal32 P).toNat = (s.txFrame P).length := by
      rw [txFrame_length, State.txTotal32, BitVec.toNat_ofNat]; omega
    exact ((hi.storeFrame hn (by rwa [txFrame_length])).setRes _).setErr _

theorem execEthdec_keeps_inv (hi : Inv P s) (h : execEthdec s = .next t) : Inv P t := by
  have hd : Inv P (s.dropDecode .none) := hi.dropDecode (by decide) (fun hn => absurd rfl hn)
  rcases execEthdec_cases h with ⟨-, rfl⟩ | ⟨-, -, rfl⟩ | ⟨hlen, het, rfl⟩
  · exact hd.setErr _
  · exact (hd.setEnvelope rfl _ _ _).setErr _
  · exact ((hd.setEnvelope rfl _ _ _).setStage_ethOk (by simp) hlen het).setErr _

theorem execPktdec_keeps_inv (hi : Inv P s) (h : execPktdec s = .next t) : Inv P t := by
  have hd (hs : s.rxStage ≠ .none) : Inv P (s.dropDecode .ethOk) := hi.dropDecode (by decide) fun _ => hs
  rcases execPktdec_cases h with ⟨-, rfl⟩ | ⟨hs, -, rfl⟩ | ⟨hs, hlen, rfl⟩
  · exact hi.setErr _
  · exact (hd hs).setErr _
  · exact ((hd hs).setHeader_pktOk rfl hlen).setErr _

theorem execValidate_keeps_inv (hi : Inv P s) (h : execValidate s = .next t) : Inv P t := by
  rcases execValidate_cases h with ⟨-, rfl⟩ | ⟨-, -, rfl⟩ | ⟨-, -, rfl⟩
  · exact hi.setErr _
  · exact (hi.setRes _).setErr _
  · exact (hi.setRes _).setErr _

theorem execBlkdec_keeps_inv (hi : Inv P s) (h : execBlkdec s = .next t) : Inv P t := by
  rcases execBlkdec_cases h with ⟨-, rfl⟩ | ⟨-, hview, ⟨e, -, rfl⟩ | ⟨r, hr, rfl⟩⟩
  · exact hi.setErr _
  · exact hi.setErr _
  · exact ((hi.setBlk (blockAt_coherent hview hr)).setRes _).setErr _

theorem execItstart_keeps_inv (hi : Inv P s) (h : execItstart s = .next t) : Inv P t := by
  rcases execItstart_cases h with ⟨-, rfl⟩ | ⟨hs, rfl⟩
  · exact hi.setErr _
  · exact ((hi.startWalk hs).setRes _).setErr _

/-- ITNEXT ends the walk with at most 6 bytes left, ends it in an error, or moves over one block (43_iterator.md
R172). -/
theorem execItnext_keeps_inv (hi : Inv P s) (h : execItnext s = .next t) : Inv P t := by
  rcases execItnext_cases h with ⟨-, rfl⟩ | ⟨hs, -, hend, rfl⟩ | ⟨hst, -, hview, hturn⟩
  · exact hi.setErr _
  · have hrem : s.itRem.toNat ≤ 6 := hend.elim hi.walk_done id
    exact ((hi.setItState hs (by decide) fun _ => hrem).setRes _).setErr _
  · have hs : s.itState ≠ .idle := by rcases hst with h | h <;> simp [h]
    have hstop : Inv P (s.setItState .error) := hi.setItState hs (by decide) fun h => nomatch h
    rcases hturn with ⟨e, -, rfl⟩ | ⟨r, hr, ⟨-, rfl⟩ | ⟨hle, rfl⟩⟩
    · exact hstop.setErr _
    · exact hstop.setErr _
    · exact ((hi.yieldBlock hs (blockAt_coherent hview hr) (blockAt_cons_ge hr) hle).setRes _).setErr _

/-- CLASSIFY under any parameters writes a class for a decoded packet only (43_iterator.md R173). -/
theorem classify_keeps_inv (hi : Inv P s) {Q : Params} (h : classify Q s = .next t) : Inv P t := by
  have hdata (hs : s.rxStage = .pktOk) : Inv P (s.classifyAs .deviceData 0 0 1) :=
    ((hi.setClass (k := .deviceData) hs (fun _ => ⟨rfl, rfl⟩) fun h => nomatch h).setRes _).setErr _
  have hack (hs : s.rxStage = .pktOk) (b : Byte) : Inv P (s.classifyAs .ack b (ackKnownBit b) 2) :=
    ((hi.setClass (k := .ack) hs (fun h => nomatch h) fun _ => rfl).setRes _).setErr _
  have herr (e : ErrCode) : Inv P (s.classifyError e) := hi.setKind_none.setErr e
  rcases classify_cases h with ⟨-, rfl⟩ | ⟨hs, -, rfl⟩ | ⟨hs, -, -, ⟨e, -, rfl⟩ | ⟨r, -, hclass⟩⟩
  · exact hi.setErr _
  · exact hdata hs
  · exact herr e
  · rcases hclass with ⟨-, rfl⟩ | ⟨-, -, -, rfl⟩ | ⟨-, -, -, rfl⟩ | ⟨-, -, rfl⟩
    · exact herr _
    · exact herr _
    · exact hack hs _
    · exact hdata hs

/-- Every command keeps the invariant. -/
theorem exec_keeps_inv (hi : Inv Config.params s) {i : Instr} (h : exec i s = .next t) : Inv Config.params t := by
  cases i with
  | nop => exact Host.Outcome.next.inj h ▸ hi.setErr _
  | u16enc => exact Host.Outcome.next.inj h ▸ { hi with }
  | u16dec => exact Host.Outcome.next.inj h ▸ (hi.setRes _).setErr _
  | u32enc => exact Host.Outcome.next.inj h ▸ { hi with }
  | u32dec => exact Host.Outcome.next.inj h ▸ (hi.setRes _).setErr _
  | rxrd8 => exact Host.Outcome.next.inj h ▸ rxRead_keeps_inv hi _ _
  | rxrd16 => exact Host.Outcome.next.inj h ▸ rxRead_keeps_inv hi _ _
  | rxrd32 => exact Host.Outcome.next.inj h ▸ rxRead_keeps_inv hi _ _
  | txbuild => exact txbuild_keeps_inv Config.params_ok hi h
  | ethdec => exact execEthdec_keeps_inv hi h
  | pktdec => exact execPktdec_keeps_inv hi h
  | validate => exact execValidate_keeps_inv hi h
  | blkdec => exact execBlkdec_keeps_inv hi h
  | itstart => exact execItstart_keeps_inv hi h
  | itnext => exact execItnext_keeps_inv hi h
  | classify => exact classify_keeps_inv hi h

/-! ### The host's operations -/

/-- An issued command keeps the invariant, legal or not (10_state.md R23, 60_exceptions.md R194). -/
theorem issue_keeps_inv (hi : Inv Config.params s) {c : Byte} (h : issue c s = .next t) : Inv Config.params t := by
  cases hc : decode c with
  | ok i => exact exec_keeps_inv (hi.withCmd c) (issue_ok hc s ▸ h)
  | error e => exact Host.Outcome.next.inj ((issue_illegal hc s).symm.trans h) ▸ (hi.withCmd c).setErr _

theorem hostWriteReg_keeps_inv (hi : Inv Config.params s) {n : Byte} {v : Nat} (h : hostWriteReg n v s = .next t) :
    Inv Config.params t := by
  rcases hostWriteReg_cases n v s with
    ⟨-, he⟩ | ⟨r, -, ⟨-, he⟩ | ⟨-, ⟨-, he⟩ | ⟨-, he⟩ | ⟨-, he⟩⟩⟩ <;> rw [he] at h
  · exact Host.Outcome.next.inj h ▸ hi
  · nomatch h
  · exact Host.Outcome.next.inj h ▸ hi
  · exact Host.Outcome.next.inj h ▸ hi.setReg r v
  · exact issue_keeps_inv hi h

theorem hostWriteVal_keeps_inv (hi : Inv P s) {a : Nat} {bytes : List Byte} (h : hostWriteVal P a bytes s = .next t) :
    Inv P t := by
  unfold hostWriteVal at h
  split at h
  · nomatch h
  · next hfit => exact Host.Outcome.next.inj h ▸ hi.storeVal (Nat.le_of_not_lt hfit)

theorem hostReadTx_keeps_inv (hi : Inv P s) {a n : Nat} (h : hostReadTx a n s = .next t) : Inv P t := by
  rcases hostReadTx_cases a n s with ⟨-, he⟩ | ⟨-, he⟩ <;> rw [he] at h
  · exact Host.Outcome.next.inj h ▸ hi.setReply _
  · nomatch h

/-- A frame load is a store of the frame in the state whose decode was dropped (60_exceptions.md R206). -/
theorem storeRx_dropDecode (s : State) (frame : List Byte) (g : RxStage) :
    (s.storeRx frame).dropDecode g = (s.dropDecode g).storeRx frame := rfl

theorem hostLoad_keeps_inv (hP : P.ok) (hi : Inv P s) {frame : List Byte} (h : hostLoad P frame s = .next t) :
    Inv P t := by
  unfold hostLoad at h
  split at h
  · nomatch h
  · next hfit =>
    have hd : Inv P (s.dropDecode .none) := hi.dropDecode (by decide) (fun hn => absurd rfl hn)
    rw [storeRx_dropDecode] at h
    exact Host.Outcome.next.inj h ▸ hd.storeRx hP rfl (Nat.le_of_not_lt hfit)

/-- Every host operation keeps the invariant (60_exceptions.md R205). -/
theorem hostStep_keeps_inv (hi : Inv Config.params s) {op : HostOp} (h : hostStep op s = .next t) :
    Inv Config.params t := by
  cases op with
  | writeReg n v => exact hostWriteReg_keeps_inv hi h
  | readReg n => exact Host.Outcome.next.inj h ▸ hi.setReply _
  | writeVal a bytes => exact hostWriteVal_keeps_inv hi h
  | readTx a n => exact hostReadTx_keeps_inv hi h
  | readRx a n => nomatch h
  | load frame => exact hostLoad_keeps_inv Config.params_ok hi h
  | reset => exact Host.Outcome.next.inj h ▸ { inv_reset Config.params with }

end

/-- Settles O33. -/
theorem resetMeetsInvariant : Obligations.ResetMeetsInvariant := inv_reset Config.params

/-- Settles O34: a step performs the first of the host's operations, or none. -/
theorem stepKeepsInvariant : Obligations.StepKeepsInvariant := by
  intro s t hi h
  cases hops : s.hostOps with
  | nil => exact Host.Outcome.next.inj ((step_of_no_operation hops).symm.trans h) ▸ hi
  | cons op rest => exact hostStep_keeps_inv (hi.takeOp rest) (step_of_operation hops ▸ h)

end Sys2Proof.Machine
end

section
/-! PROOFS. What a command writes (10_state.md R22, R25, R34): on each of its paths the named updates tell which registers
and buffers change. -/

namespace Sys2Proof.Machine

open Sys2Proof

/-- Settles O32: path by path, the state a command answers is a chain of named updates, whose field lemmas say what it
keeps. -/
theorem commandsWriteOnlyTheirRegisters : Obligations.CommandsWriteOnlyTheirRegisters := by
  intro i s t h
  cases i with
  | nop | u16enc | u16dec | u32enc | u32dec =>
    obtain rfl := Host.Outcome.next.inj h
    simp
  | rxrd8 | rxrd16 | rxrd32 =>
    obtain rfl := Host.Outcome.next.inj h
    rcases rxRead_cases s _ _ with ⟨-, he⟩ | ⟨-, he⟩ <;> rw [he] <;> simp
  | txbuild => rcases txbuild_cases h with ⟨rfl, -⟩ | ⟨rfl, -⟩ | ⟨rfl, -⟩ | ⟨rfl, -⟩ <;> simp
  | ethdec => rcases execEthdec_cases h with ⟨-, rfl⟩ | ⟨-, -, rfl⟩ | ⟨-, -, rfl⟩ <;> simp
  | pktdec => rcases execPktdec_cases h with ⟨-, rfl⟩ | ⟨-, -, rfl⟩ | ⟨-, -, rfl⟩ <;> simp
  | validate => rcases execValidate_cases h with ⟨-, rfl⟩ | ⟨-, -, rfl⟩ | ⟨-, -, rfl⟩ <;> simp
  | blkdec => rcases execBlkdec_cases h with ⟨-, rfl⟩ | ⟨-, -, ⟨e, -, rfl⟩ | ⟨r, -, rfl⟩⟩ <;> simp
  | itstart => rcases execItstart_cases h with ⟨-, rfl⟩ | ⟨-, rfl⟩ <;> simp
  | itnext =>
    rcases execItnext_cases h with
      ⟨-, rfl⟩ | ⟨-, -, -, rfl⟩ | ⟨-, -, -, ⟨e, -, rfl⟩ | ⟨r, -, ⟨-, rfl⟩ | ⟨-, rfl⟩⟩⟩ <;> simp
  | classify =>
    rcases classify_cases h with
      ⟨-, rfl⟩ | ⟨-, -, rfl⟩ | ⟨-, -, -, ⟨e, -, rfl⟩ | ⟨r, -, ⟨-, rfl⟩ | ⟨-, -, -, rfl⟩ | ⟨-, -, -, rfl⟩ | ⟨-, -, rfl⟩⟩⟩ <;>
      simp [State.classifyAs, State.classifyError]

end Sys2Proof.Machine
end

section
/-! PROOFS. The unspecified power-on bytes (10_state.md R35, 93_implementation_defined.md U1; log 5): a command reads
RXBUF inside its valid bytes only, and VALBUF inside the VALLEN bytes TXBUILD copies, so another draw of the unwritten
bytes changes no result. -/

namespace Sys2Proof.Machine

open Sys2Proof

/-- A hardware address read depends on its six bytes only. -/
theorem rdmac_congr {S T : Nat → Byte} {i : Nat} (h : ∀ j, i ≤ j → j < i + 6 → S j = T j) :
    rdmac S i = rdmac T i := by
  simp only [rdmac, h i (by omega) (by omega), h (i + 1) (by omega) (by omega), h (i + 2) (by omega) (by omega),
    h (i + 3) (by omega) (by omega), h (i + 4) (by omega) (by omega), h (i + 5) (by omega) (by omega)]

/-- The same state under another draw of the unwritten bytes (log 5). -/
def State.withEpoch (s : State) (e : Nat) : State := { s with epoch := e }

/-- A result, its next state seen under another draw. -/
def Result.withEpoch (r : Result) (e : Nat) : Result :=
  match r with
  | .next t => .next (t.withEpoch e)
  | .fault f => .fault f
  | .refused f => .refused f

/-- The draw is changed on both branches of a choice. -/
theorem Result.withEpoch_ite (c : Prop) [Decidable c] (r q : Result) (e : Nat) :
    Result.withEpoch (if c then r else q) e = if c then Result.withEpoch r e else Result.withEpoch q e :=
  apply_ite (Result.withEpoch · e) c r q

section

variable {s : State} (e : Nat)

/-! ### Reads under another draw -/

/-- A written byte does not depend on the draw. -/
theorem State.byteAt_withEpoch {b : Buf} {a : Nat} (h : ((s.buf b).read? a).isSome) :
    (s.withEpoch e).byteAt b a = s.byteAt b a := by
  obtain ⟨v, hv⟩ := Option.isSome_iff_exists.mp h
  have hv' : ((s.withEpoch e).buf b).read? a = some v := by cases b <;> exact hv
  simp only [State.byteAt, hv, hv']

/-- The payload TXBUILD sends copies the VALLEN value bytes (70_reset_and_hazards.md R222). -/
theorem txPayload_withEpoch (hw : s.valBuf.written s.valLen.toNat) : (s.withEpoch e).txPayload = s.txPayload := by
  have hread : (s.withEpoch e).memRead .val 0 s.valLen.toNat = s.memRead .val 0 s.valLen.toNat :=
    List.map_congr_left fun i hi => State.byteAt_withEpoch e (hw _ (by simpa using hi))
  exact congrArg (blockReq s.txOpt s.txSub) hread

/-- A read of the payload view goes on, or faults, under every draw alike. -/
theorem payloadAccess_withEpoch {go go' : Result}
    (h : 26 + s.rxPavail.toNat ≤ s.rxLen.toNat → go' = Result.withEpoch go e) :
    (s.withEpoch e).payloadAccess go' = Result.withEpoch (s.payloadAccess go) e := by
  rcases rxAccess_cases s Config.rxPayloadBase s.rxPavail.toNat go with ⟨hle, he⟩ | ⟨hlt, he⟩
  · rw [State.payloadAccess, State.payloadAccess, he, ← h hle]
    exact rxAccess_of_le hle go'
  · rw [State.payloadAccess, State.payloadAccess, he]
    exact if_pos hlt

/-- An RXRD command's value is taken only where its bytes are valid (40_int_codec.md R119 to R121). -/
theorem rxRead_withEpoch {n : Nat} {v v' : U32} (h : s.arg.toNat + n ≤ s.rxLen.toNat → v' = v) :
    (s.withEpoch e).rxRead n v' = (s.rxRead n v).withEpoch e := by
  rcases rxRead_cases s n v with ⟨hlt, he⟩ | ⟨hle, he⟩
  · rw [he]; exact if_pos hlt
  · rw [he, h hle]; exact if_neg (Nat.not_lt.mpr hle)

section

variable (hw : s.rxBuf.written s.rxLen.toNat)

include hw

/-- A valid byte of the received frame does not depend on the draw, and nor do the values read from such bytes. -/
theorem rxByte_withEpoch {a : Nat} (ha : a < s.rxLen.toNat) : (s.withEpoch e).rxByte a = s.rxByte a :=
  State.byteAt_withEpoch e (b := .rx) (hw a ha)

theorem rd16_withEpoch {a : Nat} (ha : a + 2 ≤ s.rxLen.toNat) : rd16 (s.withEpoch e).rxByte a = rd16 s.rxByte a :=
  rd16_congr fun _ _ hj => rxByte_withEpoch e hw (by omega)

theorem rd32_withEpoch {a : Nat} (ha : a + 4 ≤ s.rxLen.toNat) : rd32 (s.withEpoch e).rxByte a = rd32 s.rxByte a :=
  rd32_congr fun _ _ hj => rxByte_withEpoch e hw (by omega)

theorem rdmac_withEpoch {a : Nat} (ha : a + 6 ≤ s.rxLen.toNat) : rdmac (s.withEpoch e).rxByte a = rdmac s.rxByte a :=
  rdmac_congr fun _ _ hj => rxByte_withEpoch e hw (by omega)

theorem payloadByte_withEpoch {i : Nat} (hi : 26 + i < s.rxLen.toNat) :
    (s.withEpoch e).payloadByte i = s.payloadByte i :=
  rxByte_withEpoch e hw hi

theorem blockAt_withEpoch (hview : 26 + s.rxPavail.toNat ≤ s.rxLen.toNat) (p : Nat) :
    (s.withEpoch e).blockAt p = s.blockAt p := by
  have hbytes (i : Nat) (hi : i < s.rxPavail.toNat) : (s.withEpoch e).payloadByte i = s.payloadByte i :=
    payloadByte_withEpoch e hw (by omega)
  exact blockAtView_congr hbytes

/-- The header registers of a frame that holds a whole header (42_frame_codec.md R152). -/
theorem setHeader_withEpoch (hlen : 26 ≤ s.rxLen.toNat) : (s.withEpoch e).setHeader = s.setHeader.withEpoch e := by
  simp only [State.setHeader, rd16_withEpoch e hw (show 14 + 2 ≤ _ by omega),
    rd16_withEpoch e hw (show 22 + 2 ≤ _ by omega), rd16_withEpoch e hw (show 24 + 2 ≤ _ by omega),
    rd32_withEpoch e hw (show 18 + 4 ≤ _ by omega), rxByte_withEpoch e hw (show 16 < _ by omega),
    rxByte_withEpoch e hw (show 17 < _ by omega)]
  rfl

end

/-! ### The commands under another draw -/

/-- A stored frame, reported in RES, is the same under every draw. -/
theorem storeFrame_withEpoch (frame : List Byte) (total : U32) :
    (((s.withEpoch e).storeFrame frame total).setRes total).succeed =
      ((s.storeFrame frame total).setRes total).succeed.withEpoch e := rfl

theorem txbuild_withEpoch (hw : s.valBuf.written s.valLen.toNat) (P : Params) :
    txbuild P (s.withEpoch e) = Result.withEpoch (txbuild P s) e := by
  have hpay := txPayload_withEpoch e hw
  have htotal : (s.withEpoch e).txTotal P = s.txTotal P := by simp only [State.txTotal, State.txBody, hpay]
  have hframe : (s.withEpoch e).txFrame P = s.txFrame P := by
    simp only [State.txFrame, State.txBody, hpay, htotal]
    rfl
  simp only [txbuild, State.txTotal32, hpay, htotal, hframe, Result.withEpoch_ite]
  refine ite_congr rfl (fun _ => rfl) fun _ => ?_
  refine ite_congr rfl (fun _ => rfl) fun _ => ite_congr rfl (fun _ => rfl) fun _ => ?_
  exact congrArg Host.Outcome.next (storeFrame_withEpoch e _ _)

theorem execValidate_withEpoch : execValidate (s.withEpoch e) = Result.withEpoch (execValidate s) e := by
  simp only [execValidate, Result.withEpoch_ite]
  rfl

theorem execItstart_withEpoch : execItstart (s.withEpoch e) = Result.withEpoch (execItstart s) e := by
  simp only [execItstart, Result.withEpoch_ite]
  rfl

section

variable (hw : s.rxBuf.written s.rxLen.toNat)

include hw

theorem execEthdec_withEpoch : execEthdec (s.withEpoch e) = Result.withEpoch (execEthdec s) e := by
  simp only [execEthdec, Result.withEpoch_ite]
  refine ite_congr rfl (fun _ => rfl) fun hlen => ?_
  have h14 : 14 ≤ s.rxLen.toNat := Nat.le_of_not_lt hlen
  rw [rd16_withEpoch e hw (show 12 + 2 ≤ _ from h14), rdmac_withEpoch e hw (show 0 + 6 ≤ _ by omega),
    rdmac_withEpoch e hw (show 6 + 6 ≤ _ by omega)]
  rfl

theorem execPktdec_withEpoch : execPktdec (s.withEpoch e) = Result.withEpoch (execPktdec s) e := by
  simp only [execPktdec, Result.withEpoch_ite]
  refine ite_congr rfl (fun _ => rfl) fun _ => ite_congr rfl (fun _ => rfl) fun hlen => ?_
  have hhdr := setHeader_withEpoch (s := s.dropDecode .ethOk) e hw (Nat.le_of_not_lt hlen)
  exact congrArg (fun t : State => Host.Outcome.next (t.setStage .pktOk).succeed) hhdr

theorem execBlkdec_withEpoch : execBlkdec (s.withEpoch e) = Result.withEpoch (execBlkdec s) e := by
  simp only [execBlkdec, Result.withEpoch_ite]
  refine ite_congr rfl (fun _ => rfl) fun _ => payloadAccess_withEpoch e fun hview => ?_
  have hblk : (s.withEpoch e).blockAt (s.withEpoch e).arg.toNat = s.blockAt s.arg.toNat :=
    blockAt_withEpoch e hw hview _
  rw [hblk]
  cases s.blockAt s.arg.toNat <;> rfl

theorem execItnext_withEpoch : execItnext (s.withEpoch e) = Result.withEpoch (execItnext s) e := by
  simp only [execItnext, Result.withEpoch_ite]
  refine ite_congr rfl (fun _ => rfl) fun _ => ite_congr rfl (fun _ => rfl) fun _ =>
    payloadAccess_withEpoch e fun hview => ?_
  have hblk : (s.withEpoch e).blockAt (s.withEpoch e).itCur.toNat = s.blockAt s.itCur.toNat :=
    blockAt_withEpoch e hw hview _
  rw [hblk]
  cases s.blockAt s.itCur.toNat with
  | error _ => rfl
  | ok r =>
    simp only [Result.withEpoch_ite]
    rfl

theorem classify_withEpoch (P : Params) : classify P (s.withEpoch e) = Result.withEpoch (classify P s) e := by
  simp only [classify, Result.withEpoch_ite]
  refine ite_congr rfl (fun _ => rfl) fun _ => ite_congr rfl (fun _ => rfl) fun _ =>
    payloadAccess_withEpoch e fun hview => ?_
  rw [blockAt_withEpoch e hw hview]
  cases s.blockAt 0 with
  | error _ => rfl
  | ok r =>
    simp only [Result.withEpoch_ite]
    refine ite_congr rfl (fun _ => rfl) fun _ => ite_congr rfl (fun _ => ?_) fun _ => rfl
    refine ite_congr rfl (fun _ => rfl) fun hin => ?_
    rw [payloadByte_withEpoch e hw (by omega)]
    rfl

/-- Every command gives the same result under every draw: TXBUILD where the value bytes are written. -/
theorem exec_withEpoch {i : Instr} (hval : i = .txbuild → s.valBuf.written s.valLen.toNat) :
    exec i (s.withEpoch e) = Result.withEpoch (exec i s) e := by
  cases i with
  | nop | u16enc | u16dec | u32enc | u32dec => rfl
  | rxrd8 =>
    refine congrArg Host.Outcome.next (rxRead_withEpoch e fun h => congrArg zext32 ?_)
    exact rxByte_withEpoch e hw h
  | rxrd16 =>
    refine congrArg Host.Outcome.next (rxRead_withEpoch e fun h => congrArg zext32 ?_)
    exact rd16_withEpoch e hw h
  | rxrd32 =>
    refine congrArg Host.Outcome.next (rxRead_withEpoch e fun h => ?_)
    exact rd32_withEpoch e hw h
  | txbuild => exact txbuild_withEpoch e (hval rfl) _
  | ethdec => exact execEthdec_withEpoch e hw
  | pktdec => exact execPktdec_withEpoch e hw
  | validate => exact execValidate_withEpoch e
  | blkdec => exact execBlkdec_withEpoch e hw
  | itstart => exact execItstart_withEpoch e
  | itnext => exact execItnext_withEpoch e hw
  | classify => exact classify_withEpoch e hw _

end

end

/-- Settles O37: a command that answers `t` answers `t` under the other draw. -/
theorem powerOnBytesStayHidden : Obligations.PowerOnBytesStayHidden := by
  intro s t i e hw hval h
  calc exec i (s.withEpoch e) = Result.withEpoch (exec i s) e := exec_withEpoch e hw hval
    _ = .next (t.withEpoch e) := by rw [h]; rfl

end Sys2Proof.Machine
end

section
/-! PROOFS. The 48-bit address codec (20_memory.md R64). -/

namespace Sys2Proof.Machine

open Sys2Proof

/-- The byte that stands `k` bits up in a word, as a number. -/
theorem extractLsb'_byte_toNat {w : Nat} (v : BitVec w) (k : Nat) :
    (v.extractLsb' k 8).toNat = v.toNat / 2 ^ k % 256 := by
  rw [BitVec.extractLsb'_toNat, Nat.shiftRight_eq_div_pow]

/-- The wire bytes of an address, most significant first, as numbers (20_memory.md R64). -/
theorem mac_map_toNat (v : Addr48) : (mac v).map BitVec.toNat = [v.toNat / 2 ^ 40, v.toNat / 2 ^ 32 % 256,
    v.toNat / 2 ^ 24 % 256, v.toNat / 2 ^ 16 % 256, v.toNat / 2 ^ 8 % 256, v.toNat % 256] := by
  have hfirst : v.toNat / 2 ^ 40 % 256 = v.toNat / 2 ^ 40 := by
    have hv := v.isLt
    omega
  simp only [mac, List.map_cons, List.map_nil, extractLsb'_byte_toNat, hfirst, pow_zero, Nat.div_one]

/-- The six wire bytes of an address stand for it: base-256 digits add up to their number (20_memory.md R64). -/
theorem rdmac_mac (v : Addr48) : rdmac (byteView (mac v)) 0 = v := by
  apply BitVec.eq_of_toNat_eq
  have hv := v.isLt
  simp only [rdmac_toNat, byteView, mac, Nat.reduceAdd, List.getD_cons_zero, List.getD_cons_succ,
    extractLsb'_byte_toNat]
  omega

/-- Settles O13: the bytes of an address, the exact value of six bytes, and that the second undoes the first. -/
theorem addressCodecIsExact : Obligations.AddressCodecIsExact :=
  ⟨fun v => ⟨mac_map_toNat v, rdmac_mac v⟩, rdmac_toNat, rfl⟩

end Sys2Proof.Machine
end

section
/-! PROOFS. No step from a state that meets the invariant reads outside the valid bytes of RXBUF (20_memory.md R66, R71;
log 7): PKT_OK vouches for the payload view, so every command answers a next state. -/

namespace Sys2Proof.Machine

open Sys2Proof

section

variable {P : Params} {s : State}

/-! ### The commands -/

/-- At PKT_OK the payload view lies in the valid bytes of RXBUF (20_memory.md R66). -/
theorem Inv.payload_valid (hi : Inv P s) (hs : s.rxStage = .pktOk) : 26 + s.rxPavail.toNat ≤ s.rxLen.toNat :=
  (hi.pkt_decoded hs).le

/-- ETHDEC tests the frame's length before it reads the envelope (42_frame_codec.md R151). -/
theorem execEthdec_answers (s : State) : ∃ t, execEthdec s = .next t := by
  simp only [execEthdec]
  split
  · exact ⟨_, rfl⟩
  · split <;> exact ⟨_, rfl⟩

/-- PKTDEC tests the frame's length before it reads the packet header (42_frame_codec.md R152). -/
theorem execPktdec_answers (s : State) : ∃ t, execPktdec s = .next t := by
  simp only [execPktdec]
  split
  · exact ⟨_, rfl⟩
  · split <;> exact ⟨_, rfl⟩

/-- VALIDATE reads no buffer (42_frame_codec.md R153). -/
theorem execValidate_answers (s : State) : ∃ t, execValidate s = .next t := by
  unfold execValidate
  split
  · exact ⟨_, rfl⟩
  · split <;> exact ⟨_, rfl⟩

/-- ITSTART reads no buffer (43_iterator.md R171). -/
theorem execItstart_answers (s : State) : ∃ t, execItstart s = .next t := by
  unfold execItstart
  split <;> exact ⟨_, rfl⟩

/-- BLKDEC reads the payload view at PKT_OK only (41_block_codec.md R133). -/
theorem execBlkdec_answers (hi : Inv P s) : ∃ t, execBlkdec s = .next t := by
  unfold execBlkdec
  split
  · exact ⟨_, rfl⟩
  · next hs =>
    rw [payloadAccess_of_le (hi.payload_valid (not_not.mp hs))]
    cases s.blockAt s.arg.toNat with
    | error e => exact ⟨_, rfl⟩
    | ok r => exact ⟨_, rfl⟩

/-- ITNEXT reads the payload view in a started walk only, which is one of a decoded packet (43_iterator.md R172). -/
theorem execItnext_answers (hi : Inv P s) : ∃ t, execItnext s = .next t := by
  unfold execItnext
  split
  · exact ⟨_, rfl⟩
  · next hst =>
    split
    · exact ⟨_, rfl⟩
    · obtain ⟨hidle, -⟩ := not_or.mp hst
      obtain ⟨hs, -⟩ := hi.walk_sum hidle
      rw [payloadAccess_of_le (hi.payload_valid hs)]
      cases s.blockAt s.itCur.toNat with
      | error e => exact ⟨_, rfl⟩
      | ok r => dsimp only; split <;> exact ⟨_, rfl⟩

/-- CLASSIFY under any parameters reads the payload view at PKT_OK only (43_iterator.md R173). -/
theorem classify_answers (hi : Inv P s) (Q : Params) : ∃ t, classify Q s = .next t := by
  unfold classify
  split
  · exact ⟨_, rfl⟩
  · next hs =>
    split
    · exact ⟨_, rfl⟩
    · rw [payloadAccess_of_le (hi.payload_valid (not_not.mp hs))]
      cases s.blockAt 0 with
      | error e => exact ⟨_, rfl⟩
      | ok r =>
        dsimp only
        split
        · exact ⟨_, rfl⟩
        · split
          · split <;> exact ⟨_, rfl⟩
          · exact ⟨_, rfl⟩

/-- Every command answers a next state where the invariant holds: it neither faults nor is refused. -/
theorem exec_answers (hi : Inv P s) (i : Instr) : ∃ t, exec i s = .next t := by
  cases i with
  | nop | u16enc | u16dec | u32enc | u32dec | rxrd8 | rxrd16 | rxrd32 => exact ⟨_, rfl⟩
  | txbuild => exact txbuild_answers Config.params s
  | ethdec => exact execEthdec_answers s
  | pktdec => exact execPktdec_answers s
  | validate => exact execValidate_answers s
  | blkdec => exact execBlkdec_answers hi
  | itstart => exact execItstart_answers s
  | itnext => exact execItnext_answers hi
  | classify => exact classify_answers hi Config.params

/-- An issued byte answers a next state too, legal or not (10_state.md R23, 60_exceptions.md R194). -/
theorem issue_answers (hi : Inv P s) (c : Byte) : ∃ t, issue c s = .next t := by
  cases hc : decode c with
  | ok i => exact issue_ok hc s ▸ exec_answers (hi.withCmd c) i
  | error e => exact ⟨_, issue_illegal hc s⟩

/-! ### The host's operations and one step -/

/-- A host register write answers or is refused (60_exceptions.md R205). -/
theorem hostWriteReg_ne_fault (hi : Inv P s) (n : Byte) (v : Nat) (f : Fault) : hostWriteReg n v s ≠ .fault f := by
  rcases hostWriteReg_cases n v s with ⟨-, he⟩ | ⟨r, -, ⟨-, he⟩ | ⟨-, ⟨-, he⟩ | ⟨-, he⟩ | ⟨-, he⟩⟩⟩ <;> rw [he]
  · nofun
  · nofun
  · nofun
  · nofun
  · obtain ⟨t, ht⟩ := issue_answers hi (BitVec.ofNat 8 v)
    rw [ht]
    nofun

/-- A VALBUF write answers or is refused (60_exceptions.md R205). -/
theorem hostWriteVal_ne_fault (Q : Params) (a : Nat) (bytes : List Byte) (s : State) (f : Fault) :
    hostWriteVal Q a bytes s ≠ .fault f := by
  unfold hostWriteVal
  split <;> nofun

/-- A TXBUF read answers or is refused (60_exceptions.md R205). -/
theorem hostReadTx_ne_fault (a n : Nat) (s : State) (f : Fault) : hostReadTx a n s ≠ .fault f := by
  rcases hostReadTx_cases a n s with ⟨-, he⟩ | ⟨-, he⟩ <;> rw [he] <;> nofun

/-- A frame load answers or is refused (60_exceptions.md R206). -/
theorem hostLoad_ne_fault (Q : Params) (frame : List Byte) (s : State) (f : Fault) :
    hostLoad Q frame s ≠ .fault f := by
  unfold hostLoad
  split <;> nofun

/-- No host operation faults where the invariant holds: outside its range it is refused (60_exceptions.md R205). -/
theorem hostStep_ne_fault (hi : Inv P s) (op : HostOp) (f : Fault) : hostStep op s ≠ .fault f := by
  cases op with
  | writeReg n v => exact hostWriteReg_ne_fault hi n v f
  | readReg n => nofun
  | writeVal a bytes => exact hostWriteVal_ne_fault Config.params a bytes s f
  | readTx a n => exact hostReadTx_ne_fault a n s f
  | readRx a n => nofun
  | load frame => exact hostLoad_ne_fault Config.params frame s f
  | reset => nofun

end

/-- Settles O35: a step performs the first of the host's operations, or none. -/
theorem invariantStatesNeverFault : Obligations.InvariantStatesNeverFault := by
  intro s hi f
  cases hops : s.hostOps with
  | nil =>
    rw [step_of_no_operation hops]
    nofun
  | cons op rest =>
    rw [step_of_operation hops]
    exact hostStep_ne_fault (hi.takeOp rest) op f

end Sys2Proof.Machine
end

section
/-! PROOFS. The opcode table read both ways (30_encoding.md R80 to R83). -/

namespace Sys2Proof

/-- Every row of the opcode table meets its encoding law (30_encoding.md R81, R82). -/
theorem encoding_law : ∀ i, Laws.Encoding.Statement i
  | .nop => Laws.Encoding.nop
  | .u16enc => Laws.Encoding.u16enc
  | .u16dec => Laws.Encoding.u16dec
  | .u32enc => Laws.Encoding.u32enc
  | .u32dec => Laws.Encoding.u32dec
  | .rxrd8 => Laws.Encoding.rxrd8
  | .rxrd16 => Laws.Encoding.rxrd16
  | .rxrd32 => Laws.Encoding.rxrd32
  | .txbuild => Laws.Encoding.txbuild
  | .ethdec => Laws.Encoding.ethdec
  | .pktdec => Laws.Encoding.pktdec
  | .validate => Laws.Encoding.validate
  | .blkdec => Laws.Encoding.blkdec
  | .itstart => Laws.Encoding.itstart
  | .itnext => Laws.Encoding.itnext
  | .classify => Laws.Encoding.classify

/-- An opcode of the table decodes to its row (30_encoding.md R82). -/
theorem decode_encode (i : Instr) : decode (encode i) = .ok i := by
  obtain ⟨-, hdecode, -⟩ := encoding_law i
  exact hdecode

/-- A byte that decodes is the opcode of what it decodes to: every test of `decode` compares the whole byte with one
row's opcode, and the bytes that pass none of them are rejected (30_encoding.md R83). -/
theorem encode_of_decode {c : Byte} {i : Instr} : decode c = .ok i → encode i = c := by
  fun_cases decode c
  case case17 => nofun
  all_goals
    next hc =>
      rintro ⟨⟩
      exact hc.symm

/-- An opcode read as a word of eight bits decodes to its row. -/
theorem decodeTableWord_encode (i : Instr) : decodeTableWord 8 (encode i).toNat = some i := by
  have hbyte : commandByte 8 (encode i).toNat = encode i := by
    simp only [commandByte, Nat.mod_eq_of_lt (encode i).isLt, BitVec.ofNat_toNat, BitVec.setWidth_eq]
  simp only [decodeTableWord, hbyte, decode_encode]

/-- Settles O1: `encode` and `decode` undo each other, and no command has an operand that could be ill formed. -/
theorem decodeInvertsEncode : Obligations.DecodeInvertsEncode := by
  intro c i
  constructor
  · intro hdecode
    exact ⟨rfl, encode_of_decode hdecode⟩
  · rintro ⟨-, rfl⟩
    exact decode_encode i

/-- Settles O2: six words are opcodes of the table; 0x08 passes none of the decoder's tests. -/
theorem writtenWordsDecode : Obligations.WrittenWordsDecode :=
  ⟨decodeTableWord_encode .nop, decodeTableWord_encode .u16enc, decodeTableWord_encode .rxrd32,
    decodeTableWord_encode .txbuild, decodeTableWord_encode .validate, decodeTableWord_encode .classify, rfl⟩

end Sys2Proof
end

section
/-! PROOFS. The receive commands in sequence, as the pseudo-command RXHDR issues them (30_encoding.md R85): what each
command answers under its guards (42_frame_codec.md R151 to R153), and where the sequence stops. -/

namespace Sys2Proof.Machine

open Sys2Proof

/-! ### The fields the guards test -/

/-- A big-endian halfword has a given value exactly when its two bytes are the value's (40_int_codec.md R111, R112). -/
theorem rd16_eq_iff (S : Nat → Byte) (i : Nat) (v : U16) :
    rd16 S i = v ↔ S i = v.extractLsb' 8 8 ∧ S (i + 1) = v.extractLsb' 0 8 := by
  have hhigh := (S i).isLt
  have hlow := (S (i + 1)).isLt
  have hv := v.isLt
  simp only [← BitVec.toNat_inj, rd16_toNat, extractLsb'_byte_toNat]
  omega

/-- The ethertype field is DCP's exactly when bytes 12 and 13 are 0x88 and 0x92 (30_encoding.md R86, R87). -/
theorem etherType_dcp_iff (s : State) :
    rd16 s.rxByte 12 = Config.ethertypeDcp ↔ s.rxByte 12 = 0x88#8 ∧ s.rxByte 13 = 0x92#8 :=
  rd16_eq_iff s.rxByte 12 Config.ethertypeDcp

/-- RX_VALID is 1 for the service type RESPONSE alone (30_encoding.md R90). -/
theorem validBit_eq_one_iff (serviceType : Byte) : validBit serviceType = 1#1 ↔ serviceType = 1#8 := by
  by_cases hresponse : serviceType = 1#8 <;> simp [validBit, Config.serviceTypeResponse, hresponse]

/-! ### Each command under its guards -/

section

variable {s : State}

/-- ETHDEC of a frame too short for an envelope (42_frame_codec.md R151). -/
theorem execEthdec_of_short (hlen : s.rxLen.toNat < 14) :
    execEthdec s = .next ((s.dropDecode .none).setErr .frameShort) := by
  simp [execEthdec, Config.ethHdrLen, hlen]

/-- ETHDEC of a frame with a foreign ethertype (42_frame_codec.md R151). -/
theorem execEthdec_of_foreign (hlen : 14 ≤ s.rxLen.toNat) (htype : rd16 s.rxByte 12 ≠ Config.ethertypeDcp) :
    execEthdec s = .next (((s.dropDecode .none).setEnvelope (rdmac s.rxByte 0) (rdmac s.rxByte 6)
      (rd16 s.rxByte 12)).setErr .etherType) := by
  simp [execEthdec, Config.ethHdrLen, Nat.not_lt.mpr hlen, htype]

/-- ETHDEC of a DCP frame (42_frame_codec.md R151). -/
theorem execEthdec_of_dcp (hlen : 14 ≤ s.rxLen.toNat) (htype : rd16 s.rxByte 12 = Config.ethertypeDcp) :
    execEthdec s = .next ((((s.dropDecode .none).setEnvelope (rdmac s.rxByte 0) (rdmac s.rxByte 6)
      (rd16 s.rxByte 12)).setStage .ethOk).setErr .ok) := by
  simp [execEthdec, Config.ethHdrLen, Nat.not_lt.mpr hlen, htype]

/-- PKTDEC of a frame too short for a packet header (42_frame_codec.md R152). -/
theorem execPktdec_of_short (hstage : s.rxStage ≠ .none) (hlen : s.rxLen.toNat < 26) :
    execPktdec s = .next ((s.dropDecode .ethOk).setErr .pktShort) := by
  simp [execPktdec, Config.rxPayloadBase, hstage, hlen]

/-- PKTDEC of a whole packet header (42_frame_codec.md R152). -/
theorem execPktdec_of_le (hstage : s.rxStage ≠ .none) (hlen : 26 ≤ s.rxLen.toNat) :
    execPktdec s = .next (((s.dropDecode .ethOk).setHeader.setStage .pktOk).setErr .ok) := by
  simp [execPktdec, Config.rxPayloadBase, hstage, Nat.not_lt.mpr hlen]

/-- VALIDATE of a decoded packet: RES and ERR both tell RX_VALID (42_frame_codec.md R153). -/
theorem execValidate_of_pktOk (hstage : s.rxStage = .pktOk) :
    execValidate s =
      .next ((s.setRes (zext32 s.rxValid)).setErr (if s.rxValid = 1#1 then .ok else .notResponse)) := by
  by_cases hvalid : s.rxValid = 1#1 <;> simp [execValidate, hstage, hvalid]

/-! ### The sequence -/

/-- Issuing a command's opcode performs the command with CMD written (10_state.md R23). -/
theorem issue_encode (i : Instr) (s : State) : issue (encode i) s = exec i (s.withCmd (encode i)) :=
  issue_ok (decode_encode i) s

/-- After a command that leaves ERR = 0x00 the host goes on (30_encoding.md R85). -/
theorem thenIfOk_of_ok {t : State} (h : t.err = .ok) (go : State → Result) :
    thenIfOk (.next t) go = go t :=
  if_pos h

/-- After any other the host stops (30_encoding.md R85). -/
theorem thenIfOk_of_error {t : State} (h : t.err ≠ .ok) (go : State → Result) :
    thenIfOk (.next t) go = .next t :=
  if_neg h

/-- RXHDR ends at ETHDEC where that is in error. -/
theorem rxHdr_of_ethdec_error {t : State} (ht : issue (encode .ethdec) s = .next t) (he : t.err ≠ .ok) :
    rxHdr s = .next t := by
  rw [rxHdr, ht, thenIfOk_of_error he]

/-- RXHDR ends at PKTDEC where that is the first in error. -/
theorem rxHdr_of_pktdec_error {t u : State} (ht : issue (encode .ethdec) s = .next t) (hte : t.err = .ok)
    (hu : issue (encode .pktdec) t = .next u) (hue : u.err ≠ .ok) : rxHdr s = .next u := by
  rw [rxHdr, ht, thenIfOk_of_ok hte, hu, thenIfOk_of_error hue]

/-- RXHDR ends at VALIDATE where neither is. -/
theorem rxHdr_of_pktdec_ok {t u : State} (ht : issue (encode .ethdec) s = .next t) (hte : t.err = .ok)
    (hu : issue (encode .pktdec) t = .next u) (hue : u.err = .ok) : rxHdr s = issue (encode .validate) u := by
  rw [rxHdr, ht, thenIfOk_of_ok hte, hu, thenIfOk_of_ok hue]

/-- ETHDEC issued on a DCP frame succeeds, and RXBUF stands for PKTDEC to read. -/
theorem issue_ethdec_of_dcp (hlen : 14 ≤ s.rxLen.toNat) (htype : rd16 s.rxByte 12 = Config.ethertypeDcp) :
    ∃ t, issue (encode .ethdec) s = .next t ∧ t.err = .ok ∧ t.rxStage ≠ .none ∧ t.rxLen = s.rxLen ∧
      t.rxByte = s.rxByte :=
  ⟨_, (issue_encode _ _).trans (execEthdec_of_dcp hlen htype), rfl, nofun, rfl, rfl⟩

/-- PKTDEC issued on a whole packet header succeeds, and RX_VALID tells the service type. -/
theorem issue_pktdec_of_le (hstage : s.rxStage ≠ .none) (hlen : 26 ≤ s.rxLen.toNat) :
    ∃ t, issue (encode .pktdec) s = .next t ∧ t.err = .ok ∧ t.rxStage = .pktOk ∧
      t.rxValid = validBit (s.rxByte 17) :=
  ⟨_, (issue_encode _ _).trans (execPktdec_of_le hstage hlen), rfl, rfl, rfl⟩

/-- RXHDR on a frame too short for an envelope. -/
theorem rxHdr_of_frameShort (hlen : s.rxLen.toNat < 14) :
    ∃ t, rxHdr s = .next t ∧ t.cmd = 0x20#8 ∧ t.err = .frameShort :=
  ⟨_, rxHdr_of_ethdec_error ((issue_encode _ _).trans (execEthdec_of_short hlen)) nofun, rfl, rfl⟩

/-- RXHDR on a frame with a foreign ethertype. -/
theorem rxHdr_of_foreign (hlen : 14 ≤ s.rxLen.toNat) (htype : rd16 s.rxByte 12 ≠ Config.ethertypeDcp) :
    ∃ t, rxHdr s = .next t ∧ t.cmd = 0x20#8 ∧ t.err = .etherType :=
  ⟨_, rxHdr_of_ethdec_error ((issue_encode _ _).trans (execEthdec_of_foreign hlen htype)) nofun, rfl, rfl⟩

/-- RXHDR on a DCP frame too short for a packet header. -/
theorem rxHdr_of_pktShort (h14 : 14 ≤ s.rxLen.toNat) (h26 : s.rxLen.toNat < 26)
    (htype : rd16 s.rxByte 12 = Config.ethertypeDcp) :
    ∃ t, rxHdr s = .next t ∧ t.cmd = 0x21#8 ∧ t.err = .pktShort := by
  obtain ⟨t, ht, hte, hstage, hlen, -⟩ := issue_ethdec_of_dcp h14 htype
  have hu := (issue_encode .pktdec t).trans (execPktdec_of_short hstage (hlen ▸ h26))
  exact ⟨_, rxHdr_of_pktdec_error ht hte hu nofun, rfl, rfl⟩

/-- RXHDR on a DCP frame with a whole packet header: ERR tells a response from any other service type. -/
theorem rxHdr_of_header (hlen : 26 ≤ s.rxLen.toNat) (htype : rd16 s.rxByte 12 = Config.ethertypeDcp) :
    ∃ t, rxHdr s = .next t ∧ t.cmd = 0x22#8 ∧ t.rxStage = .pktOk ∧
      t.err = (if s.rxByte 17 = 1#8 then .ok else .notResponse) := by
  obtain ⟨t, ht, hte, htstage, htlen, htbyte⟩ := issue_ethdec_of_dcp (Nat.le_trans (by decide) hlen) htype
  obtain ⟨u, hu, hue, hustage, huvalid⟩ := issue_pktdec_of_le htstage (htlen ▸ hlen)
  have hv := (issue_encode .validate u).trans (execValidate_of_pktOk hustage)
  refine ⟨_, (rxHdr_of_pktdec_ok ht hte hu hue).trans hv, rfl, hustage, ?_⟩
  simp [huvalid, htbyte, validBit_eq_one_iff]

end

/-- Settles O45: one clause for each place where RXHDR ends. -/
theorem rxhdrStopsAtFirstError : Obligations.RxhdrStopsAtFirstError := by
  intro s
  refine ⟨rxHdr_of_frameShort, fun hlen htype => ?_, fun h14 h26 h12 h13 => ?_, fun hlen h12 h13 => ?_⟩
  · exact rxHdr_of_foreign hlen (mt (etherType_dcp_iff s).mp htype)
  · exact rxHdr_of_pktShort h14 h26 ((etherType_dcp_iff s).mpr ⟨h12, h13⟩)
  · exact rxHdr_of_header hlen ((etherType_dcp_iff s).mpr ⟨h12, h13⟩)

end Sys2Proof.Machine
end

section
/-! PROOFS. The integer codec: the big-endian pairs (40_int_codec.md R111 to R114, R122) and the commands that use
them (R110, R115 to R121). -/

namespace Sys2Proof.Machine

open Sys2Proof

/-! ### Words and their bytes -/

/-- A word no wider than RES is widened without loss (00_scope.md R7). -/
theorem zext32_toNat {w : Nat} (hw : w ≤ 32) (v : BitVec w) : (zext32 v).toNat = v.toNat :=
  BitVec.toNat_setWidth_of_le hw

/-- ARG[15:0] as a number (40_int_codec.md R115). -/
theorem argLow_toNat (s : State) : s.argLow.toNat = s.arg.toNat % 2 ^ 16 := by
  simp [State.argLow, BitVec.extractLsb'_toNat]

/-- The bytes of `be16` are the base-256 digits of the halfword, the high one first (40_int_codec.md R111). -/
theorem be16_bytes_toNat (v : U16) :
    (byteView (be16 v) 0).toNat = v.toNat / 256 ∧ (byteView (be16 v) 1).toNat = v.toNat % 256 := by
  have hv := v.isLt
  simp only [byteView, be16, List.getD_cons_zero, List.getD_cons_succ, extractLsb'_byte_toNat]
  omega

/-- The bytes of `be32` are the base-256 digits of the word, the most significant first (40_int_codec.md R113). -/
theorem be32_bytes_toNat (v : U32) :
    (byteView (be32 v) 0).toNat = v.toNat / 2 ^ 24 ∧ (byteView (be32 v) 1).toNat = v.toNat / 2 ^ 16 % 256 ∧
      (byteView (be32 v) 2).toNat = v.toNat / 2 ^ 8 % 256 ∧ (byteView (be32 v) 3).toNat = v.toNat % 256 := by
  have hv := v.isLt
  simp only [byteView, be32, List.getD_cons_zero, List.getD_cons_succ, extractLsb'_byte_toNat, true_and]
  omega

/-- A big-endian word has a given value exactly when its four bytes are the value's (40_int_codec.md R113, R114). -/
theorem rd32_eq_iff (S : Nat → Byte) (i : Nat) (v : U32) :
    rd32 S i = v ↔ S i = v.extractLsb' 24 8 ∧ S (i + 1) = v.extractLsb' 16 8 ∧ S (i + 2) = v.extractLsb' 8 8 ∧
      S (i + 3) = v.extractLsb' 0 8 := by
  have h0 := (S i).isLt
  have h1 := (S (i + 1)).isLt
  have h2 := (S (i + 2)).isLt
  have h3 := (S (i + 3)).isLt
  have hv := v.isLt
  simp only [← BitVec.toNat_inj, rd32_toNat, extractLsb'_byte_toNat]
  omega

/-- `rd16` undoes `be16` (40_int_codec.md R122). -/
theorem rd16_be16 (v : U16) : rd16 (byteView (be16 v)) 0 = v :=
  (rd16_eq_iff _ 0 v).mpr ⟨rfl, rfl⟩

/-- `be16` undoes `rd16` (40_int_codec.md R122). -/
theorem be16_rd16 (S : Nat → Byte) (i : Nat) : be16 (rd16 S i) = [S i, S (i + 1)] := by
  obtain ⟨hhigh, hlow⟩ := (rd16_eq_iff S i _).mp rfl
  rw [be16, ← hhigh, ← hlow]

/-- `rd32` undoes `be32` (40_int_codec.md R122). -/
theorem rd32_be32 (v : U32) : rd32 (byteView (be32 v)) 0 = v :=
  (rd32_eq_iff _ 0 v).mpr ⟨rfl, rfl, rfl, rfl⟩

/-- `be32` undoes `rd32` (40_int_codec.md R122). -/
theorem be32_rd32 (S : Nat → Byte) (i : Nat) : be32 (rd32 S i) = [S i, S (i + 1), S (i + 2), S (i + 3)] := by
  obtain ⟨h0, h1, h2, h3⟩ := (rd32_eq_iff S i _).mp rfl
  rw [be32, ← h0, ← h1, ← h2, ← h3]

/-- A big-endian word is its two halfwords, the high one first (40_int_codec.md R122). -/
theorem rd32_toNat_eq_rd16 (S : Nat → Byte) (i : Nat) :
    (rd32 S i).toNat = 65536 * (rd16 S i).toNat + (rd16 S (i + 2)).toNat := by
  rw [rd32_toNat, rd16_toNat, rd16_toNat, show i + 2 + 1 = i + 3 from rfl]
  omega

/-- Settles O12: the byte tests of `rd16_eq_iff` and `rd32_eq_iff`, read in both directions. -/
theorem codecFunctionsAreInverse : Obligations.CodecFunctionsAreInverse :=
  ⟨rd16_be16, be16_rd16, rd32_be32, be32_rd32, rd32_toNat_eq_rd16⟩

/-! ### NOP and the byte window -/

/-- Settles O6: success writes ERR and no other field. -/
theorem nopClearsErrOnly : Obligations.NopClearsErrOnly :=
  ⟨rfl, fun _ => ⟨_, rfl, rfl, rfl⟩⟩

/-- Settles O7: cutting ARG to its low halfword changes neither of the two bytes. -/
theorem u16encWritesHighByteFirst : Obligations.U16encWritesHighByteFirst := by
  refine ⟨rfl, fun s => ?_⟩
  obtain ⟨hhigh, hlow⟩ := be16_bytes_toNat s.argLow
  rw [argLow_toNat] at hhigh hlow
  exact ⟨_, rfl, hhigh.trans (by omega), hlow.trans (by omega), rfl⟩

/-- Settles O8: the halfword read is exact, and RES holds it whole. -/
theorem u16decReadsHighByteFirst : Obligations.U16decReadsHighByteFirst :=
  ⟨rfl, fun s => ⟨_, rfl, (zext32_toNat (by decide) _).trans (rd16_toNat (byteView [s.byte0, s.byte1]) 0), rfl⟩⟩

/-- Settles O9: the window holds the bytes of `be32`. -/
theorem u32encWritesHighByteFirst : Obligations.U32encWritesHighByteFirst := by
  refine ⟨rfl, fun s => ?_⟩
  obtain ⟨h0, h1, h2, h3⟩ := be32_bytes_toNat s.arg
  exact ⟨_, rfl, h0, h1, h2, h3, rfl⟩

/-- Settles O10: the word read is exact, and U32ENC leaves in the window what `rd32` undoes. -/
theorem u32decReadsHighByteFirst : Obligations.U32decReadsHighByteFirst :=
  ⟨rfl, fun s => ⟨_, rfl, rd32_toNat (byteView s.window) 0, rfl⟩,
    fun s => ⟨_, _, rfl, rfl, rd32_be32 s.arg⟩⟩

/-! ### Reads of the received frame -/

/-- A read of the received frame within the valid bytes writes RES and clears ERR (40_int_codec.md R119 to R121). -/
theorem rxRead_of_le {s : State} {n : Nat} (h : s.arg.toNat + n ≤ s.rxLen.toNat) (value : U32) :
    s.rxRead n value = (s.setRes value).setErr .ok := by
  rcases rxRead_cases s n value with ⟨hlt, -⟩ | ⟨-, he⟩
  · omega
  · exact he

/-- A read of the received frame beyond the valid bytes writes ERR alone (40_int_codec.md R119 to R121). -/
theorem rxRead_of_lt {s : State} {n : Nat} (h : s.rxLen.toNat < s.arg.toNat + n) (value : U32) :
    s.rxRead n value = s.setErr .rxOob := by
  rcases rxRead_cases s n value with ⟨-, he⟩ | ⟨hle, -⟩
  · exact he
  · omega

/-- The outcome of a read within the valid bytes: RES, as a number, and the frame. -/
theorem next_rxRead_of_le {s : State} {n m : Nat} {value : U32} (h : s.arg.toNat + n ≤ s.rxLen.toNat)
    (hm : value.toNat = m) : ∃ t, (.next (s.rxRead n value) : Result) = .next t ∧ t.res.toNat = m ∧
      t = { s with res := t.res, err := .ok } :=
  ⟨_, congrArg Host.Outcome.next (rxRead_of_le h value), hm, rfl⟩

/-- Settles O11: each command is `rxRead` of its width; the bound picks the outcome and the big-endian read is exact. -/
theorem rxReadsAreBoundedAndBigEndian : Obligations.RxReadsAreBoundedAndBigEndian := by
  refine ⟨rfl, rfl, rfl, rfl, fun s => ⟨fun h => ?_, fun h => ?_, fun h => ?_, fun h => ?_, fun h => ?_, fun h => ?_⟩⟩
  · exact next_rxRead_of_le h (zext32_toNat (by decide) _)
  · exact next_rxRead_of_le h ((zext32_toNat (by decide) _).trans (rd16_toNat s.rxByte s.arg.toNat))
  · exact next_rxRead_of_le h (rd32_toNat s.rxByte s.arg.toNat)
  all_goals exact congrArg Host.Outcome.next (rxRead_of_lt h _)

end Sys2Proof.Machine
end

section
/-! PROOFS. The block codec: the parser's outcomes and the record's fields (41_block_codec.md R131, R132), BLKDEC (R133),
and the response layout read back (R134). -/

namespace Sys2Proof.Machine

open Sys2Proof

/-! ### The consumed span -/

/-- A consumed span is even: an odd length is rounded up by its pad byte (41_block_codec.md R131). -/
theorem consumedSpan_even (len : Nat) : consumedSpan len % 2 = 0 := by
  simp only [consumedSpan]
  omega

/-- The longest consumed span, that of a 16-bit length of 65535 (41_block_codec.md R131). -/
theorem consumedSpan_le {len : Nat} (h : len < 2 ^ 16) : consumedSpan len ≤ 65540 := by
  simp only [consumedSpan]
  omega

/-! ### The parser under each outcome of its checks -/

section

variable {S : Nat → Byte} {avail p : Nat}

/-- A header that runs past the valid bytes (41_block_codec.md R132, the first check). -/
theorem blockAtView_of_header_truncated (h : avail < p + 4) : blockAtView S avail p = .error .blkHdrTrunc :=
  if_pos h

/-- A length below that of the status field (41_block_codec.md R132, the second check). -/
theorem blockAtView_of_len_small (hhdr : p + 4 ≤ avail) (hlen : (rd16 S (p + 2)).toNat < 2) :
    blockAtView S avail p = .error .blkLenSmall :=
  (if_neg (Nat.not_lt.mpr hhdr)).trans (if_pos hlen)

/-- A value that runs past the valid bytes (41_block_codec.md R132, the third check). -/
theorem blockAtView_of_value_truncated (hhdr : p + 4 ≤ avail) (hlen : 2 ≤ (rd16 S (p + 2)).toNat)
    (hval : avail < p + 4 + (rd16 S (p + 2)).toNat) : blockAtView S avail p = .error .blkValTrunc :=
  (if_neg (Nat.not_lt.mpr hhdr)).trans <| (if_neg (Nat.not_lt.mpr hlen)).trans (if_pos hval)

/-- A block that lies in the valid bytes, its pad byte aside (41_block_codec.md R132). -/
theorem blockAtView_of_fits (hlen : 2 ≤ (rd16 S (p + 2)).toNat) (hfit : p + 4 + (rd16 S (p + 2)).toNat ≤ avail) :
    blockAtView S avail p = .ok (blockRecord S p) :=
  (if_neg (Nat.not_lt.mpr ((Nat.le_add_right _ _).trans hfit))).trans <|
    (if_neg (Nat.not_lt.mpr hlen)).trans (if_neg (Nat.not_lt.mpr hfit))

end

/-! ### The record's computed fields -/

section

variable (S : Nat → Byte) {p : Nat}

/-- BLK_POFF and BLK_VOFF are exact where the value's address does not wrap (41_block_codec.md R132; log 12). -/
theorem blockRecord_offsets_toNat (h : 26 + p + 6 < 2 ^ 32) :
    (blockRecord S p).poff.toNat = p ∧ (blockRecord S p).voff.toNat = 26 + p + 6 :=
  ⟨Nat.mod_eq_of_lt (by omega), Nat.mod_eq_of_lt h⟩

variable (p)

/-- The value is what the length leaves after the status field (41_block_codec.md R132). -/
theorem blockRecord_vlen_toNat : (blockRecord S p).vlen.toNat = (rd16 S (p + 2)).toNat - 2 :=
  Nat.mod_eq_of_lt (Nat.sub_lt_of_lt (rd16 S (p + 2)).isLt)

/-- BLK_PAD is the length's parity (41_block_codec.md R132). -/
theorem blockRecord_pad_toNat : (blockRecord S p).pad.toNat = (rd16 S (p + 2)).toNat % 2 := by
  simp [blockRecord, padBit]

end

/-- A halfword of the payload view, in bytes of RXBUF (20_memory.md R60, 40_int_codec.md R112). -/
theorem rd16_payloadByte_toNat (s : State) (i : Nat) :
    (rd16 s.payloadByte i).toNat = 256 * (s.rxByte (26 + i)).toNat + (s.rxByte (26 + i + 1)).toNat :=
  rd16_toNat s.payloadByte i

/-- Settles O14: each clause picks the parser's outcome, and the record's fields are exact because a block in the valid
bytes ends below 2^32. -/
theorem blockParserChecksAndFields : Obligations.BlockParserChecksAndFields := by
  intro s p avail len
  have hlen : (rd16 s.payloadByte (p + 2)).toNat = len := rd16_payloadByte_toNat s (p + 2)
  refine ⟨blockAtView_of_header_truncated, fun hhdr hsmall => ?_, fun hhdr hmin hval => ?_,
    fun hmin hfit hcap => ?_, rfl, rfl, rfl⟩
  · exact blockAtView_of_len_small hhdr (hlen ▸ hsmall)
  · exact blockAtView_of_value_truncated hhdr (hlen ▸ hmin) (hlen ▸ hval)
  · have hrec : s.blockAt p = .ok (blockRecord s.payloadByte p) :=
      blockAtView_of_fits (hlen ▸ hmin) (hlen ▸ hfit)
    have hcons := blockRecord_cons_toNat s.payloadByte p
    have hword := (rd16 s.payloadByte (p + 2)).isLt
    obtain ⟨hpoff, hvoff⟩ := blockRecord_offsets_toNat s.payloadByte (p := p) (by omega)
    refine ⟨_, hrec, rfl, rfl, hlen, rd16_payloadByte_toNat s (p + 4), hpoff, hvoff, ?_, ?_, ?_, ?_, ?_, ?_⟩
    · rw [blockRecord_vlen_toNat, hlen]
    · rw [blockRecord_pad_toNat, hlen]
    · rw [hcons, hlen, consumedSpan]
    · rw [hcons, consumedSpan_even]
    · exact blockRecord_cons_ge (hlen ▸ hmin)
    · exact hcons ▸ consumedSpan_le hword

/-! ### BLKDEC -/

section

variable {s : State}

/-- BLKDEC without a decoded packet (41_block_codec.md R133). -/
theorem execBlkdec_of_not_decoded (hs : s.rxStage ≠ .pktOk) : execBlkdec s = .next (s.setErr .sequence) :=
  if_pos hs

section

variable (hs : s.rxStage = .pktOk) (hview : 26 + s.rxPavail.toNat ≤ s.rxLen.toNat)

include hs hview

/-- BLKDEC where no block parses at ARG (41_block_codec.md R133). -/
theorem execBlkdec_of_error {e : ErrCode} (he : s.blockAt s.arg.toNat = .error e) :
    execBlkdec s = .next (s.setErr e) := by
  simp [execBlkdec, hs, payloadAccess_of_le hview, he]

/-- BLKDEC where a block parses at ARG (41_block_codec.md R133). -/
theorem execBlkdec_of_block {r : BlockRegs} (hr : s.blockAt s.arg.toNat = .ok r) :
    execBlkdec s = .next (((s.setBlk r).setRes (zext32 r.cons)).setErr .ok) := by
  simp [execBlkdec, hs, payloadAccess_of_le hview, hr]

end

end

/-- Settles O15: the stage, then the parser's answer at ARG, picks the path; RES holds the 17-bit span whole. -/
theorem blkdecParsesBlockAtArg : Obligations.BlkdecParsesBlockAtArg := by
  refine ⟨rfl, fun s => ⟨execBlkdec_of_not_decoded, fun hs hview => ⟨fun e => execBlkdec_of_error hs hview, ?_⟩⟩⟩
  exact fun r hr => ⟨_, execBlkdec_of_block hs hview hr, rfl, zext32_toNat (by decide) r.cons, rfl⟩

/-! ### The response layout -/

/-- A byte sequence is what its view shows at its own indices. -/
theorem map_byteView_range (V : List Byte) : (List.range V.length).map (byteView V) = V :=
  List.ext_getElem (by simp) fun i _ hi => by simp [byteView, hi]

section

variable (o u : Byte) (status : U16) {V : List Byte} (pad : Byte)

/-- The status field of a response layout (41_block_codec.md R134). -/
theorem rd16_blockResp_status : rd16 (byteView (blockResp o u status V pad)) 4 = status :=
  (rd16_eq_iff _ 4 _).mpr ⟨rfl, rfl⟩

/-- The value of a response layout starts after its header and status, six bytes (41_block_codec.md R134). -/
theorem byteView_blockResp_value {i : Nat} (hi : i < V.length) :
    byteView (blockResp o u status V pad) (6 + i) = byteView V i := by
  have htail : byteView (blockResp o u status V pad) (6 + i) =
      byteView (V ++ List.replicate ((V.length + 2) % 2) pad) i := by
    simp [blockResp, be16, byteView, Nat.add_comm 6 i]
  exact htail.trans (List.getD_append _ _ _ _ hi)

variable (hV : V.length ≤ 65533)

include hV

/-- The length field of a response layout counts status and value: 16 bits hold it (41_block_codec.md R134). -/
theorem rd16_blockResp_len_toNat : (rd16 (byteView (blockResp o u status V pad)) 2).toNat = V.length + 2 := by
  have hfield : rd16 (byteView (blockResp o u status V pad)) 2 = BitVec.ofNat 16 (V.length + 2) :=
    (rd16_eq_iff _ 2 _).mpr ⟨rfl, rfl⟩
  rw [hfield, BitVec.toNat_ofNat, Nat.mod_eq_of_lt (by omega)]

/-- The parser takes a response layout: the layout is at least as long as its length field says (41_block_codec.md
R134). -/
theorem blockAtView_blockResp :
    blockAtView (byteView (blockResp o u status V pad)) (blockResp o u status V pad).length 0 =
      .ok (blockRecord (byteView (blockResp o u status V pad)) 0) := by
  have hlen := rd16_blockResp_len_toNat o u status pad hV
  apply blockAtView_of_fits <;> rw [hlen]
  · omega
  · rw [blockResp_length, consumedSpan]
    omega

/-- BLK_VLEN counts the value without status and pad (41_block_codec.md R134). -/
theorem blockRecord_blockResp_vlen_toNat :
    (blockRecord (byteView (blockResp o u status V pad)) 0).vlen.toNat = V.length := by
  rw [blockRecord_vlen_toNat, rd16_blockResp_len_toNat o u status pad hV, Nat.add_sub_cancel]

end

/-- Settles O16: the record reads each field of the layout where it was written, and the value's bytes are read back one
by one. -/
theorem parserRecoversResponseLayout : Obligations.ParserRecoversResponseLayout := by
  intro o u status V pad hV
  refine ⟨⟨_, blockAtView_blockResp o u status pad hV, rfl, rfl, rd16_blockResp_status o u status pad, rfl, ?_⟩,
    fun hodd => ?_⟩
  · rw [blockRecord_blockResp_vlen_toNat o u status pad hV]
    have hbytes : ∀ i ∈ List.range V.length, byteView (blockResp o u status V pad) (6 + i) = byteView V i :=
      fun i hi => byteView_blockResp_value o u status pad (List.mem_range.mp hi)
    exact (List.map_congr_left hbytes).trans (map_byteView_range V)
  · rw [blockReq_length]
    omega

end Sys2Proof.Machine
end

section
/-! PROOFS. The transmit path: the frame TXBUILD builds (42_frame_codec.md R150, R154 to R156), where its bytes stand in
TXBUF, and TXBUILD under each outcome of its checks. -/

namespace Sys2Proof.Machine

open Sys2Proof

/-! ### The frame and its length -/

/-- Below the first part's length, two parts in a row show the first part's bytes. -/
theorem byteView_append_left {A : List Byte} (B : List Byte) {i : Nat} (hi : i < A.length) :
    byteView (A ++ B) i = byteView A i :=
  List.getD_append A B 0 i hi

/-- From the first part's length on, two parts in a row show the second part's bytes. -/
theorem byteView_append_right (A B : List Byte) (i : Nat) : byteView (A ++ B) (A.length + i) = byteView B i := by
  rw [byteView, byteView, List.getD_append_right A B 0 _ (Nat.le_add_right _ _), Nat.add_sub_cancel_left]

/-- The whole frame's length in VALLEN (42_frame_codec.md R150). -/
theorem txTotal_eq (P : Params) (s : State) :
    s.txTotal P = max (26 + (4 + s.valLen.toNat + s.valLen.toNat % 2)) P.txMinFrameLen := by
  rw [State.txTotal, State.txBody, txPayload_length, Config.rxPayloadBase]

/-- A frame that fits TXBUF has a length of 32 bits (00_scope.md R6). -/
theorem txTotal32_toNat {P : Params} {s : State} (hP : P.ok) (hfit : s.txTotal P ≤ P.txCap) :
    (s.txTotal32 P).toNat = s.txTotal P := by
  obtain ⟨-, -, -, hcap, -⟩ := hP
  exact Nat.mod_eq_of_lt (by omega)

/-- The frame in VALLEN: the Ethernet header, the packet header with the recomputed length, the block-request with VALLEN
as its length field, the trailer (42_frame_codec.md R150). -/
theorem txFrame_eq (P : Params) (s : State) {plen : Nat} (hplen : 4 + s.valLen.toNat + s.valLen.toNat % 2 = plen) :
    s.txFrame P = ethHdr s.txDst s.txSrc ++
      pktHdr s.txFrameId s.txServiceId s.txServiceType s.txXid s.txDelay (BitVec.ofNat 16 plen) ++
      [s.txOpt, s.txSub] ++ be16 s.valLen ++ s.memRead .val 0 s.valLen.toNat ++ zeros (s.valLen.toNat % 2) ++
      zeros (s.txTotal P - (26 + plen)) := by
  have hpay : s.txPayload = [s.txOpt, s.txSub] ++ be16 s.valLen ++ s.memRead .val 0 s.valLen.toNat ++
      zeros (s.valLen.toNat % 2) := by
    rw [State.txPayload, blockReq, memRead_length, BitVec.ofNat_toNat, BitVec.setWidth_eq]
  rw [State.txFrame, State.txBody, txPayload_length, hplen, hpay, Config.rxPayloadBase]
  simp only [List.append_assoc]

/-- The frame's value bytes stand after the Ethernet, packet and block headers: 14 + 12 + 4 bytes (42_frame_codec.md
R150). -/
theorem byteView_txFrame_value (P : Params) (s : State) {i : Nat} (hi : i < s.valLen.toNat) :
    byteView (s.txFrame P) (30 + i) = s.valByte i := by
  have hvalue : i < (s.memRead .val 0 s.valLen.toNat).length := (memRead_length s .val 0 _).symm ▸ hi
  rw [txFrame_eq P s rfl, List.append_assoc, List.append_assoc]
  calc _ = byteView (s.memRead .val 0 s.valLen.toNat ++ _) i := byteView_append_right _ _ i
    _ = byteView (s.memRead .val 0 s.valLen.toNat) i := byteView_append_left _ hvalue
    _ = s.byteAt .val (0 + i) := memRead_byteView s .val 0 hi
    _ = s.valByte i := congrArg s.valByte (Nat.zero_add i)

/-! ### The stored frame -/

/-- What TXBUILD leaves of a frame that fits: the frame in TXBUF, its length in TXLEN and RES, ERR = 0x00
(42_frame_codec.md R150). -/
def State.transmit (s : State) (frame : List Byte) (total : U32) : State :=
  ((s.storeFrame frame total).setRes total).setErr .ok

section

variable (s : State) (frame : List Byte) (total : U32)

/-- TXBUILD writes TXBUF, TXLEN, RES and ERR (42_frame_codec.md R150). -/
theorem transmit_frame : s.transmit frame total =
    { s with txBuf := (s.transmit frame total).txBuf, txLen := (s.transmit frame total).txLen,
             res := (s.transmit frame total).res, err := .ok } :=
  rfl

/-- TXBUF holds the frame from address 0, and above it what was there (20_memory.md R67). -/
theorem transmit_txByte (a : Nat) :
    (s.transmit frame total).txByte a = if a < frame.length then byteView frame a else s.txByte a := by
  simpa using State.txByte_of_write s (s.transmit frame total) frame 0 a rfl rfl

/-- The frame is read back whole (20_memory.md R72). -/
theorem transmit_memRead : (s.transmit frame total).memRead .tx 0 frame.length = frame := by
  have hbytes : ∀ i ∈ List.range frame.length,
      (s.transmit frame total).byteAt .tx (0 + i) = byteView frame i := fun i hi =>
    calc (s.transmit frame total).byteAt .tx (0 + i)
        = (s.transmit frame total).txByte i := congrArg _ (Nat.zero_add i)
      _ = byteView frame i := (transmit_txByte s frame total i).trans (if_pos (List.mem_range.mp hi))
  exact (List.map_congr_left hbytes).trans (map_byteView_range frame)

end

/-! ### TXBUILD under each outcome of its checks -/

section

variable {P : Params} {s : State}

/-- The first check: more value bytes than VALBUF holds (42_frame_codec.md R150). -/
theorem txbuild_of_valRange (hval : P.valCap < s.valLen.toNat) : txbuild P s = .next (s.setErr .valRange) :=
  if_pos hval

/-- The second check: a payload whose length 16 bits do not hold (42_frame_codec.md R150). -/
theorem txbuild_of_payloadTooLong (hval : s.valLen.toNat ≤ P.valCap) (hlong : 65531 ≤ s.valLen.toNat) :
    txbuild P s = .next (s.setErr .payloadTooLong) := by
  have hpay : s.txPayload.length > 65535 := by rw [txPayload_length]; omega
  exact (if_neg (Nat.not_lt.mpr hval)).trans (if_pos hpay)

section

variable (hval : s.valLen.toNat ≤ P.valCap) (hshort : s.valLen.toNat < 65531)

include hval hshort

/-- Past the first two checks the third decides: the frame fits TXBUF or not (42_frame_codec.md R150). -/
theorem txbuild_of_short : txbuild P s =
    if s.txTotal P > P.txCap then .next (s.setErr .txOverflow)
    else .next (s.transmit (s.txFrame P) (s.txTotal32 P)) := by
  have hpay : ¬ s.txPayload.length > 65535 := by rw [txPayload_length]; omega
  exact (if_neg (Nat.not_lt.mpr hval)).trans (if_neg hpay)

/-- The third check: a frame longer than TXBUF (42_frame_codec.md R150). -/
theorem txbuild_of_txOverflow (hover : P.txCap < s.txTotal P) : txbuild P s = .next (s.setErr .txOverflow) :=
  (txbuild_of_short hval hshort).trans (if_pos hover)

/-- A frame that fits is stored (42_frame_codec.md R150). -/
theorem txbuild_of_fits (hfit : s.txTotal P ≤ P.txCap) :
    txbuild P s = .next (s.transmit (s.txFrame P) (s.txTotal32 P)) :=
  (txbuild_of_short hval hshort).trans (if_neg (Nat.not_lt.mpr hfit))

end

end

/-- Settles O17: each clause picks the outcome of TXBUILD's checks, and the frame written out is the one TXBUILD builds. -/
theorem txbuildUnderAnyParameters : Obligations.TxbuildUnderAnyParameters := by
  refine ⟨rfl, fun _ => rfl, fun P s hP => ?_⟩
  intro n plen total frame
  have htotal : s.txTotal P = total := txTotal_eq P s
  have hframe : s.txFrame P = frame := by
    have hvalue : s.memRead .val 0 n = (List.range n).map fun i => s.valByte i :=
      List.map_congr_left fun i _ => congrArg s.valByte (Nat.zero_add i)
    rw [txFrame_eq P s (plen := plen) rfl, htotal, hvalue]
    simp only [ethHdr, pktHdr, frame, List.append_assoc]
    rfl
  have hlen : frame.length = total := hframe ▸ htotal ▸ txFrame_length P s
  refine ⟨txbuild_of_valRange, txbuild_of_payloadTooLong, fun hval hshort hover => ?_, fun hval hshort hfit => ?_,
    rfl, rfl, rfl⟩
  · exact txbuild_of_txOverflow hval hshort (htotal ▸ hover)
  · have hbuilt := txbuild_of_fits hval hshort (htotal ▸ hfit)
    have htotal32 : (s.txTotal32 P).toNat = total := (txTotal32_toNat hP (htotal ▸ hfit)).trans htotal
    rw [hframe] at hbuilt
    refine ⟨_, hbuilt, htotal32, rfl, hlen, fun a => ?_, transmit_frame s frame _⟩
    rw [transmit_txByte, hlen]

/-- Settles O18: with no minimum length the frame is the three headers, the value and its pad byte. -/
theorem txbuildCompletes : Obligations.TxbuildCompletes := by
  intro s hval hshort hcap
  have htotal : s.txTotal Config.params = 30 + s.valLen.toNat + s.valLen.toNat % 2 := by
    rw [txTotal_eq, show Config.params.txMinFrameLen = 0 from rfl]
    omega
  have hfit : s.txTotal Config.params ≤ Config.params.txCap := htotal ▸ hcap
  have hlen : (s.txTotal32 Config.params).toNat = s.txTotal Config.params := txTotal32_toNat Config.params_ok hfit
  refine ⟨_, txbuild_of_fits hval hshort hfit, rfl, hlen.trans htotal, rfl, fun a ha => ?_, fun i hi => ?_,
    transmit_frame s _ _⟩
  · have habove : ¬ a < (s.txFrame Config.params).length := by
      rw [txFrame_length, ← hlen]
      exact Nat.not_lt.mpr ha
    rw [transmit_txByte, if_neg habove]
  · have hinside : 30 + i < (s.txFrame Config.params).length := by
      rw [txFrame_length, htotal]
      omega
    rw [transmit_txByte, if_pos hinside, byteView_txFrame_value _ s hi]

end Sys2Proof.Machine
end

section
/-! PROOFS. The receive path: ETHDEC, PKTDEC and VALIDATE, and the header fields they write (42_frame_codec.md R151 to
R153, R158). -/

namespace Sys2Proof.Machine

open Sys2Proof

/-! ### The fields -/

/-- The ethertype field as a number (30_encoding.md R86, R87). -/
theorem etherType_dcp_iff_toNat (s : State) :
    rd16 s.rxByte 12 = Config.ethertypeDcp ↔ 256 * (s.rxByte 12).toNat + (s.rxByte 13).toNat = 0x8892 := by
  rw [← BitVec.toNat_inj, rd16_toNat]
  rfl

/-- RX_VALID of a service-type byte, as a number (42_frame_codec.md R152). -/
theorem validBit_eq (serviceType : Byte) : validBit serviceType = if serviceType.toNat = 1 then 1#1 else 0#1 := by
  simp only [validBit, Config.serviceTypeResponse, ← BitVec.toNat_inj, BitVec.toNat_ofNat, Nat.reducePow, Nat.reduceMod]

/-- RX_PAVAIL is exact where the frame holds a packet header (42_frame_codec.md R152). -/
theorem setHeader_rxPavail_toNat (s : State) : s.setHeader.rxPavail.toNat = s.rxLen.toNat - 26 := by
  have hlen := s.rxLen.isLt
  exact Nat.mod_eq_of_lt (by omega)

section

variable {s : State}

/-! ### ETHDEC -/

/-- ETHDEC of a frame with an envelope: the ethertype decides the stage and ERR (42_frame_codec.md R151). -/
theorem execEthdec_of_le (hlen : 14 ≤ s.rxLen.toNat) :
    execEthdec s = .next ((((s.dropDecode .none).setEnvelope (rdmac s.rxByte 0) (rdmac s.rxByte 6)
      (rd16 s.rxByte 12)).setStage (if rd16 s.rxByte 12 = Config.ethertypeDcp then .ethOk else .none)).setErr
        (if rd16 s.rxByte 12 = Config.ethertypeDcp then .ok else .etherType)) := by
  by_cases htype : rd16 s.rxByte 12 = Config.ethertypeDcp
  · rw [execEthdec_of_dcp hlen htype, if_pos htype, if_pos htype]
  · rw [execEthdec_of_foreign hlen htype, if_neg htype, if_neg htype]
    rfl

/-! ### PKTDEC -/

/-- PKTDEC without a decoded envelope (42_frame_codec.md R152). -/
theorem execPktdec_of_not_decoded (hstage : s.rxStage = .none) : execPktdec s = .next (s.setErr .sequence) :=
  if_pos hstage

/-! ### VALIDATE -/

/-- VALIDATE without a decoded packet (42_frame_codec.md R153). -/
theorem execValidate_of_not_decoded (hstage : s.rxStage ≠ .pktOk) : execValidate s = .next (s.setErr .sequence) :=
  if_pos hstage

/-- What VALIDATE reports of a packet, RX_VALID being the bit of its service type: RES = 1 and ERR = 0x00 for a response,
RES = 0 and ERR = 0x13 for any other (42_frame_codec.md R153). -/
theorem validate_report {valid : BitVec 1} {serviceType : Byte}
    (hvalid : valid = if serviceType = 1#8 then 1#1 else 0#1) :
    (serviceType = 1#8 → zext32 valid = 1#32 ∧
      (if valid = 1#1 then ErrCode.ok else ErrCode.notResponse).code = 0x00#8) ∧
    (serviceType ≠ 1#8 → zext32 valid = 0#32 ∧
      (if valid = 1#1 then ErrCode.ok else ErrCode.notResponse).code = 0x13#8) := by
  constructor <;> intro htype
  · rw [hvalid, if_pos htype]
    exact ⟨rfl, rfl⟩
  · rw [hvalid, if_neg htype]
    exact ⟨rfl, rfl⟩

/-! ### The commands in sequence -/

/-- ETHDEC of a DCP frame succeeds with the envelope in its registers, and the frame stands for PKTDEC to read
(42_frame_codec.md R151). -/
theorem exec_ethdec_of_dcp (hlen : 14 ≤ s.rxLen.toNat) (htype : rd16 s.rxByte 12 = Config.ethertypeDcp) :
    ∃ t, exec .ethdec s = .next t ∧ t.err = .ok ∧ t.rxStage ≠ .none ∧ t.rxLen = s.rxLen ∧ t.rxByte = s.rxByte ∧
      t.rxDst = rdmac s.rxByte 0 ∧ t.rxSrc = rdmac s.rxByte 6 ∧ t.rxEtype = rd16 s.rxByte 12 :=
  ⟨_, execEthdec_of_dcp hlen htype, rfl, nofun, rfl, rfl, rfl, rfl, rfl⟩

end

/-- Settles O19: the frame's length picks the path, and its ethertype the stage and ERR. -/
theorem ethdecDecodesEnvelope : Obligations.EthdecDecodesEnvelope := by
  refine ⟨rfl, rfl, rfl, fun s => ⟨execEthdec_of_short, fun hlen => ?_⟩⟩
  have htype := etherType_dcp_iff_toNat s
  refine ⟨_, execEthdec_of_le hlen, rdmac_toNat s.rxByte 0, rdmac_toNat s.rxByte 6, rd16_toNat s.rxByte 12,
    if_congr htype rfl rfl, if_congr htype rfl rfl, ?_⟩
  simp only [State.dropDecode, State.setEnvelope, State.setStage, State.setErr]

/-- Settles O20: the stage, then the frame's length, picks the path; every field read is exact. -/
theorem pktdecDecodesHeader : Obligations.PktdecDecodesHeader := by
  refine ⟨rfl, rfl, rfl, fun s => ⟨execPktdec_of_not_decoded, execPktdec_of_short, fun hstage hlen => ?_⟩⟩
  refine ⟨_, execPktdec_of_le hstage hlen, rd16_toNat s.rxByte 14, rfl, rfl, rd32_toNat s.rxByte 18,
    rd16_toNat s.rxByte 22, rd16_toNat s.rxByte 24, setHeader_rxPavail_toNat (s.dropDecode .ethOk),
    validBit_eq (s.rxByte 17), ?_⟩
  simp only [State.dropDecode, State.setHeader, State.setStage, State.setErr]

/-- Settles O21: the stage picks the path; RES holds RX_VALID, and ERR tells it. -/
theorem validateReportsValidity : Obligations.ValidateReportsValidity := by
  refine ⟨rfl, rfl, fun s => ⟨execValidate_of_not_decoded, fun hstage => ?_⟩⟩
  refine ⟨_, execValidate_of_pktOk hstage, zext32_toNat (by decide) s.rxValid, rfl, rfl, fun hvalid => ?_⟩
  obtain ⟨hresponse, hother⟩ := validate_report hvalid
  constructor <;> intro htype
  · obtain ⟨hres, herr⟩ := hresponse htype
    exact ⟨congrArg BitVec.toNat hres, herr⟩
  · obtain ⟨hres, herr⟩ := hother htype
    exact ⟨congrArg BitVec.toNat hres, herr⟩

/-- Settles O22: VALIDATE reports the bit PKTDEC wrote for byte 17. -/
theorem validateAcceptsServiceTypeOneOnly : Obligations.ValidateAcceptsServiceTypeOneOnly := by
  intro s hlen h12 h13
  obtain ⟨t, ht, -, hstage, htlen, htbyte, -⟩ :=
    exec_ethdec_of_dcp (Nat.le_trans (by decide) hlen) ((etherType_dcp_iff s).mpr ⟨h12, h13⟩)
  have hu : exec .pktdec t = _ := execPktdec_of_le hstage (htlen ▸ hlen)
  refine ⟨t, _, _, ht, hu, execValidate_of_pktOk rfl, ?_⟩
  rw [← htbyte]
  exact validate_report rfl

end Sys2Proof.Machine
end

section
/-! PROOFS. A built frame loaded back and decoded (42_frame_codec.md R157): the header fields TXBUILD wrote are the ones
ETHDEC and PKTDEC read. -/

namespace Sys2Proof.Machine

open Sys2Proof

/-! ### The headers of a built frame -/

/-- Six wire bytes read as a given address exactly when they are the address's (20_memory.md R64). -/
theorem rdmac_eq_iff (S : Nat → Byte) (i : Nat) (v : Addr48) :
    rdmac S i = v ↔ S i = v.extractLsb' 40 8 ∧ S (i + 1) = v.extractLsb' 32 8 ∧ S (i + 2) = v.extractLsb' 24 8 ∧
      S (i + 3) = v.extractLsb' 16 8 ∧ S (i + 4) = v.extractLsb' 8 8 ∧ S (i + 5) = v.extractLsb' 0 8 := by
  have h0 := (S i).isLt
  have h1 := (S (i + 1)).isLt
  have h2 := (S (i + 2)).isLt
  have h3 := (S (i + 3)).isLt
  have h4 := (S (i + 4)).isLt
  have h5 := (S (i + 5)).isLt
  have hv := v.isLt
  simp only [← BitVec.toNat_inj, rdmac_toNat, extractLsb'_byte_toNat]
  omega

section

variable {P : Params} {s : State} {S : Nat → Byte} (hS : ∀ a < 26, S a = byteView (s.txFrame P) a)

include hS

/-- The Ethernet header TXBUILD writes, read at its offsets (42_frame_codec.md R154, 30_encoding.md R86). -/
theorem ethHdr_of_txFrame :
    rdmac S 0 = s.txDst ∧ rdmac S 6 = s.txSrc ∧ rd16 S 12 = Config.ethertypeDcp := by
  simp only [rdmac_eq_iff, rd16_eq_iff, hS, Nat.reduceAdd, Nat.reduceLT]
  exact ⟨⟨rfl, rfl, rfl, rfl, rfl, rfl⟩, ⟨rfl, rfl, rfl, rfl, rfl, rfl⟩, rfl, rfl⟩

/-- The packet header TXBUILD writes, read at its offsets (42_frame_codec.md R155, 30_encoding.md R88). -/
theorem pktHdr_of_txFrame :
    rd16 S 14 = s.txFrameId ∧ S 16 = s.txServiceId ∧ S 17 = s.txServiceType ∧ rd32 S 18 = s.txXid ∧
      rd16 S 22 = s.txDelay ∧ rd16 S 24 = BitVec.ofNat 16 s.txPayload.length := by
  simp only [rd16_eq_iff, rd32_eq_iff, hS, Nat.reduceAdd, Nat.reduceLT]
  exact ⟨⟨rfl, rfl⟩, rfl, rfl, ⟨rfl, rfl, rfl, rfl⟩, ⟨rfl, rfl⟩, rfl, rfl⟩

end

/-! ### The round trip -/

/-- TXBUILD ends with ERR = 0x00 only where it stored a frame that fits (42_frame_codec.md R150). -/
theorem txbuild_ok {P : Params} {s t : State} (h : txbuild P s = .next t) (hok : t.err = .ok) :
    t = s.transmit (s.txFrame P) (s.txTotal32 P) ∧ s.txPayload.length ≤ 65535 ∧ s.txTotal P ≤ P.txCap := by
  rcases txbuild_cases h with ⟨rfl, -⟩ | ⟨rfl, -⟩ | ⟨rfl, -⟩ | ⟨rfl, -, hpay, hfit⟩
  · nomatch hok
  · nomatch hok
  · nomatch hok
  · exact ⟨rfl, hpay, hfit⟩

/-- A load of a frame that fits RXBUF: RXLEN is its length, and its bytes are read from address 0 (60_exceptions.md
R206). -/
theorem hostLoad_of_le {P : Params} {frame : List Byte} (hP : P.ok) (hfit : frame.length ≤ P.rxCap) (s : State) :
    ∃ t, hostLoad P frame s = .next t ∧ t.rxLen.toNat = frame.length ∧
      ∀ a < frame.length, t.rxByte a = byteView frame a := by
  obtain ⟨-, hcap, -⟩ := hP
  refine ⟨_, if_neg (Nat.not_lt.mpr hfit), Nat.mod_eq_of_lt (by omega), fun a ha => ?_⟩
  have hread := State.rxByte_of_write s (s.storeRx frame) frame 0 a rfl rfl
  rwa [if_pos (by omega)] at hread

/-- Settles O23: the loaded bytes are those of the built frame, whose headers ETHDEC and PKTDEC read field by field. -/
theorem builtFrameRoundTrips : Obligations.BuiltFrameRoundTrips := by
  intro P s t hP hbuild hok hcap
  obtain ⟨rfl, hpay, hfit⟩ := txbuild_ok hbuild hok
  have htotal : (s.transmit (s.txFrame P) (s.txTotal32 P)).txLen.toNat = (s.txFrame P).length :=
    (txTotal32_toNat hP hfit).trans (txFrame_length P s).symm
  have hroom : 26 ≤ (s.txFrame P).length := by
    rw [txFrame_length, txTotal_eq]
    omega
  rw [htotal] at hcap ⊢
  rw [transmit_memRead]
  obtain ⟨u, hu, hulen, hubyte⟩ := hostLoad_of_le hP hcap (s.transmit (s.txFrame P) (s.txTotal32 P))
  have hbytes : ∀ a < 26, u.rxByte a = byteView (s.txFrame P) a := fun a ha => hubyte a (by omega)
  obtain ⟨hdst, hsrc, htype⟩ := ethHdr_of_txFrame hbytes
  obtain ⟨v, hv, hverr, hvstage, hvlen, hvbyte, hvdst, hvsrc, hvtype⟩ := exec_ethdec_of_dcp (by omega) htype
  obtain ⟨hfid, hsid, hstype, hxid, hdelay, hplen⟩ := pktHdr_of_txFrame (hvbyte ▸ hbytes)
  refine ⟨u, v, _, hu, hv, execPktdec_of_le hvstage (hvlen ▸ hulen ▸ hroom), hverr, rfl, hvdst.trans hdst, hvsrc.trans hsrc,
    hvtype.trans htype, hfid, hsid, hstype, hxid, hdelay, ?_, ?_⟩
  · calc (rd16 v.rxByte 24).toNat = s.txPayload.length := by
          rw [hplen, BitVec.toNat_ofNat, Nat.mod_eq_of_lt (by omega)]
      _ = 4 + s.valLen.toNat + s.valLen.toNat % 2 := txPayload_length s
  · rw [← hulen, ← hvlen]
    exact setHeader_rxPavail_toNat (v.dropDecode .ethOk)

end Sys2Proof.Machine
end

section
/-! PROOFS. The bytes after the declared payload (42_frame_codec.md R159): PKTDEC reads the 26 header bytes, the parser the
six bytes at its cursor, CLASSIFY also its status byte, and no other byte of RXBUF. -/

namespace Sys2Proof.Machine

open Sys2Proof

/-- The same state with other contents in RXBUF. -/
def State.withRxBuf (s : State) (m : Memory) : State := { s with rxBuf := m }

/-- A result, its next state changed. -/
def Result.mapNext (f : State → State) (r : Result) : Result :=
  match r with
  | .next t => .next (f t)
  | .fault e => .fault e
  | .refused e => .refused e

/-- The next state is changed on both branches of a choice. -/
theorem Result.mapNext_ite (f : State → State) (c : Prop) [Decidable c] (r q : Result) :
    Result.mapNext f (if c then r else q) = if c then Result.mapNext f r else Result.mapNext f q :=
  apply_ite (Result.mapNext f) c r q

/-- The parser reads no byte beyond the header and the status at its cursor: the check of the value's span compares lengths
(41_block_codec.md R132). -/
theorem blockAtView_congr_header {S T : Nat → Byte} {p : Nat} (h : ∀ j, p ≤ j → j < p + 6 → S j = T j)
    (avail : Nat) : blockAtView S avail p = blockAtView T avail p := by
  have hlen : rd16 S (p + 2) = rd16 T (p + 2) := rd16_congr fun j _ _ => h j (by omega) (by omega)
  have hstatus : rd16 S (p + 4) = rd16 T (p + 4) := rd16_congr fun j _ _ => h j (by omega) (by omega)
  have hrec : blockRecord S p = blockRecord T p := by
    simp only [blockRecord, hlen, hstatus, h p (by omega) (by omega), h (p + 1) (by omega) (by omega)]
  simp only [blockAtView, hlen, hrec]

section

variable {s : State} {m : Memory}

/-! ### Reads under other contents of RXBUF -/

/-- The payload view lies in the valid bytes, or not, whatever they are. -/
theorem payloadAccess_withRxBuf {go go' : Result} (h : go' = Result.mapNext (·.withRxBuf m) go) :
    (s.withRxBuf m).payloadAccess go' = Result.mapNext (·.withRxBuf m) (s.payloadAccess go) := by
  rw [h, State.payloadAccess, State.payloadAccess, State.rxAccess, State.rxAccess, Result.mapNext_ite]
  rfl

/-- The header registers of a frame whose 26 header bytes are the same (42_frame_codec.md R152). -/
theorem setHeader_withRxBuf (h : ∀ a < 26, (s.withRxBuf m).rxByte a = s.rxByte a) :
    (s.withRxBuf m).setHeader = s.setHeader.withRxBuf m := by
  have hhalf (i : Nat) (hi : i + 2 ≤ 26) : rd16 (s.withRxBuf m).rxByte i = rd16 s.rxByte i :=
    rd16_congr fun j _ hj => h j (by omega)
  have hword : rd32 (s.withRxBuf m).rxByte 18 = rd32 s.rxByte 18 := rd32_congr fun j _ hj => h j (by omega)
  simp only [State.setHeader, hword, hhalf 14 (by decide), hhalf 22 (by decide), hhalf 24 (by decide),
    h 16 (by decide), h 17 (by decide)]
  rfl

/-- PKTDEC reads the 26 header bytes alone (42_frame_codec.md R152). -/
theorem execPktdec_withRxBuf (h : ∀ a < 26, (s.withRxBuf m).rxByte a = s.rxByte a) :
    execPktdec (s.withRxBuf m) = Result.mapNext (·.withRxBuf m) (execPktdec s) := by
  simp only [execPktdec, Result.mapNext_ite]
  refine ite_congr rfl (fun _ => rfl) fun _ => ite_congr rfl (fun _ => rfl) fun _ => ?_
  have hhdr := setHeader_withRxBuf (s := s.dropDecode .ethOk) h
  exact congrArg (fun t : State => Host.Outcome.next (t.setStage .pktOk).succeed) hhdr

section

variable {plen : Nat} (h : ∀ a < 26 + plen, (s.withRxBuf m).rxByte a = s.rxByte a)

include h

/-- The parser at a cursor with a header and a status before the payload's end. -/
theorem blockAt_withRxBuf {p : Nat} (hp : p + 6 ≤ plen) : (s.withRxBuf m).blockAt p = s.blockAt p :=
  blockAtView_congr_header (fun j _ hj => h (26 + j) (by omega)) s.rxPavail.toNat

/-- ITNEXT parses only while more than six bytes of the payload remain at its cursor (43_iterator.md R172). -/
theorem execItnext_withRxBuf (hsum : s.itCur.toNat + s.itRem.toNat ≤ plen) :
    execItnext (s.withRxBuf m) = Result.mapNext (·.withRxBuf m) (execItnext s) := by
  simp only [execItnext, Result.mapNext_ite]
  refine ite_congr rfl (fun _ => rfl) fun _ => ite_congr rfl (fun _ => rfl) fun hgo => payloadAccess_withRxBuf ?_
  obtain ⟨-, hrem⟩ := not_or.mp hgo
  have hmore : 6 < s.itRem.toNat := Nat.lt_of_not_le hrem
  have hblk : (s.withRxBuf m).blockAt (s.withRxBuf m).itCur.toNat = s.blockAt s.itCur.toNat :=
    blockAt_withRxBuf h (p := s.itCur.toNat) (by omega)
  rw [hblk]
  cases s.blockAt s.itCur.toNat with
  | error _ => rfl
  | ok r =>
    simp only [Result.mapNext_ite]
    rfl

/-- CLASSIFY parses the first block of a payload of more than six bytes, and reads a status byte that lies in the payload
(43_iterator.md R173). -/
theorem classify_withRxBuf {P : Params} (hplen : s.rxPlen.toNat = plen) (hack : P.ackStatusOffset ≤ 6) :
    classify P (s.withRxBuf m) = Result.mapNext (·.withRxBuf m) (classify P s) := by
  simp only [classify, Result.mapNext_ite]
  refine ite_congr rfl (fun _ => rfl) fun _ => ite_congr rfl (fun _ => rfl) fun hgo => payloadAccess_withRxBuf ?_
  have hmore : 6 < s.rxPlen.toNat := Nat.lt_of_not_le hgo
  have hstatus : (s.withRxBuf m).payloadByte P.ackStatusOffset = s.payloadByte P.ackStatusOffset :=
    h (26 + P.ackStatusOffset) (by omega)
  rw [blockAt_withRxBuf h (by omega), hstatus]
  cases s.blockAt 0 with
  | error _ => rfl
  | ok r =>
    simp only [Result.mapNext_ite]
    rfl

end

end

/-- Settles O30: each of the three commands gives the same result under the other contents. -/
theorem trailingBytesAreNotRead : Obligations.TrailingBytesAreNotRead := by
  intro s t m i hi hsum hbytes hexec
  have hresult : exec i (s.withRxBuf m) = Result.mapNext (·.withRxBuf m) (exec i s) := by
    rcases hi with rfl | rfl | rfl
    · exact execPktdec_withRxBuf hbytes
    · exact execItnext_withRxBuf hbytes (hsum rfl)
    · exact classify_withRxBuf hbytes rfl (P := Config.params) (Nat.le_refl 6)
  calc exec i (s.withRxBuf m) = Result.mapNext (·.withRxBuf m) (exec i s) := hresult
    _ = .next (t.withRxBuf m) := by rw [hexec]; rfl

end Sys2Proof.Machine
end

section
/-! PROOFS. The payload iterator's commands (43_iterator.md R171, R172): ITSTART, and ITNEXT under the guards of its
turn. -/

namespace Sys2Proof.Machine

open Sys2Proof

section

variable {s : State}

/-! ### ITSTART -/

/-- ITSTART without a decoded packet (43_iterator.md R171). -/
theorem execItstart_of_not_decoded (hs : s.rxStage ≠ .pktOk) : execItstart s = .next (s.setErr .sequence) :=
  if_pos hs

/-- ITSTART of a decoded packet (43_iterator.md R171). -/
theorem execItstart_of_pktOk (hs : s.rxStage = .pktOk) :
    execItstart s = .next ((s.startWalk.setRes 0).setErr .ok) :=
  if_neg (not_not.mpr hs)

/-! ### ITNEXT -/

/-- ITNEXT without a walk to go on with (43_iterator.md R172). -/
theorem execItnext_of_not_started (hst : s.itState = .idle ∨ s.itState = .error) :
    execItnext s = .next (s.setErr .sequence) :=
  if_pos hst

/-- ITNEXT at the end of the walk: DONE already, or at most six bytes left (43_iterator.md R172). -/
theorem execItnext_of_end (hidle : s.itState ≠ .idle) (herror : s.itState ≠ .error)
    (hend : s.itState = .done ∨ s.itRem.toNat ≤ 6) :
    execItnext s = .next (((s.setItState .done).setRes 0).setErr .ok) :=
  (if_neg (not_or.mpr ⟨hidle, herror⟩)).trans (if_pos hend)

/-- A walk at READY or BLOCK is started and has not ended (10_state.md R31). -/
theorem itState_of_started (hst : s.itState = .ready ∨ s.itState = .block) :
    s.itState ≠ .idle ∧ s.itState ≠ .error ∧ s.itState ≠ .done := by
  rcases hst with hst | hst <;> simp [hst]

section

variable (hst : s.itState = .ready ∨ s.itState = .block) (hmore : 6 < s.itRem.toNat)
  (hview : 26 + s.rxPavail.toNat ≤ s.rxLen.toNat)

include hst hmore hview

/-- ITNEXT where no block parses at the cursor (43_iterator.md R172). -/
theorem execItnext_of_error {e : ErrCode} (he : s.blockAt s.itCur.toNat = .error e) :
    execItnext s = .next ((s.setItState .error).setErr e) := by
  obtain ⟨hidle, herror, hdone⟩ := itState_of_started hst
  simp [execItnext, Config.walkMin, hidle, herror, hdone, Nat.not_le.mpr hmore, payloadAccess_of_le hview, he]

variable {r : BlockRegs} (hr : s.blockAt s.itCur.toNat = .ok r)

include hr

/-- ITNEXT of a block that overruns the declared length (43_iterator.md R172). -/
theorem execItnext_of_overrun (hover : s.itRem.toNat < r.cons.toNat) :
    execItnext s = .next ((s.setItState .error).setErr .blkOverrun) := by
  obtain ⟨hidle, herror, hdone⟩ := itState_of_started hst
  simp [execItnext, Config.walkMin, hidle, herror, hdone, Nat.not_le.mpr hmore, payloadAccess_of_le hview, hr, hover]

/-- ITNEXT of a block within the declared length (43_iterator.md R172). -/
theorem execItnext_of_block (hfit : r.cons.toNat ≤ s.itRem.toNat) :
    execItnext s = .next (((s.yieldBlock r).setRes 1).setErr .ok) := by
  obtain ⟨hidle, herror, hdone⟩ := itState_of_started hst
  simp [execItnext, Config.walkMin, hidle, herror, hdone, Nat.not_le.mpr hmore, payloadAccess_of_le hview, hr,
    Nat.not_lt.mpr hfit]

end

/-! ### A yielded block moves the walk -/

/-- IT_CUR moves past the block's span, and does not wrap within the declared length (43_iterator.md R172; log 12). -/
theorem yieldBlock_itCur_toNat {r : BlockRegs} (hsum : s.itCur.toNat + s.itRem.toNat ≤ 65535)
    (hfit : r.cons.toNat ≤ s.itRem.toNat) : (s.yieldBlock r).itCur.toNat = s.itCur.toNat + r.cons.toNat :=
  Nat.mod_eq_of_lt (by omega)

/-- IT_REM is lowered by the block's span (43_iterator.md R172). -/
theorem yieldBlock_itRem_toNat (s : State) (r : BlockRegs) :
    (s.yieldBlock r).itRem.toNat = s.itRem.toNat - r.cons.toNat :=
  Nat.mod_eq_of_lt (Nat.sub_lt_of_lt s.itRem.isLt)

/-- IT_NBLK counts the block (43_iterator.md R172; log 12). -/
theorem yieldBlock_itNblk_toNat (r : BlockRegs) (hcount : s.itNblk.toNat < 65535) :
    (s.yieldBlock r).itNblk.toNat = s.itNblk.toNat + 1 :=
  Nat.mod_eq_of_lt (Nat.succ_lt_succ hcount)

end

/-- Settles O24: the stage picks the path. -/
theorem itstartStartsWalk : Obligations.ItstartStartsWalk :=
  ⟨rfl, fun _ => ⟨execItstart_of_not_decoded, fun hs => ⟨_, execItstart_of_pktOk hs, rfl, rfl, rfl, rfl, rfl, rfl, rfl⟩⟩⟩

/-- Settles O25: the walk's state, the bytes left and the parser's answer at the cursor pick the path. -/
theorem itnextTakesOneTurn : Obligations.ItnextTakesOneTurn := by
  refine ⟨rfl, rfl, fun s => ⟨execItnext_of_not_started, execItnext_of_end, fun hst hmore hview => ?_⟩⟩
  refine ⟨fun e => execItnext_of_error hst hmore hview, fun r hr => ?_⟩
  refine ⟨execItnext_of_overrun hst hmore hview hr, fun hfit hsum hcount => ?_⟩
  exact ⟨_, execItnext_of_block hst hmore hview hr hfit, rfl, yieldBlock_itCur_toNat hsum hfit,
    yieldBlock_itRem_toNat s r, yieldBlock_itNblk_toNat r hcount, rfl, rfl, rfl, rfl⟩

end Sys2Proof.Machine
end

section
/-! PROOFS. The iterator agrees with walk() (43_iterator.md R170, R174): each ITNEXT takes the turn of the walk at its
cursor, so by induction on the ITNEXTs left the host finds the blocks the walk yields, and the end it ends in. -/

namespace Sys2Proof.Machine

open Sys2Proof

/-! ### One turn of the walk -/

section

variable {S : Nat → Byte} {avail cur rem : Nat}

/-- The walk ends with at most six bytes left, whatever the turns left (43_iterator.md R170). -/
theorem walkFrom_of_end (fuel : Nat) (hend : rem ≤ 6) : walkFrom S avail fuel cur rem = ([], .ok) := by
  cases fuel with
  | zero => rfl
  | succ fuel => exact if_neg (Nat.not_lt.mpr hend)

variable {fuel : Nat} (hmore : 6 < rem)

include hmore

/-- The walk ends where no block parses at the cursor (43_iterator.md R170). -/
theorem walkFrom_of_error {e : ErrCode} (he : blockAtView S avail cur = .error e) :
    walkFrom S avail (fuel + 1) cur rem = ([], e) := by
  simp [walkFrom, Config.walkMin, hmore, he]

variable {r : BlockRegs} (hr : blockAtView S avail cur = .ok r)

include hr

/-- The walk ends at a block that overruns the remaining length (43_iterator.md R170). -/
theorem walkFrom_of_overrun (hover : rem < r.cons.toNat) :
    walkFrom S avail (fuel + 1) cur rem = ([], .blkOverrun) := by
  simp [walkFrom, Config.walkMin, hmore, hr, hover]

/-- The walk yields a block within the remaining length and goes on behind it (43_iterator.md R170). -/
theorem walkFrom_of_block (hfit : r.cons.toNat ≤ rem) :
    walkFrom S avail (fuel + 1) cur rem =
      (r :: (walkFrom S avail fuel (cur + r.cons.toNat) (rem - r.cons.toNat)).1,
        (walkFrom S avail fuel (cur + r.cons.toNat) (rem - r.cons.toNat)).2) := by
  simp [walkFrom, Config.walkMin, hmore, hr, Nat.not_lt.mpr hfit]

end

/-- A block that does not parse has an error code (41_block_codec.md R132). -/
theorem blockAt_error_ne_ok {s : State} {p : Nat} {e : ErrCode} (he : s.blockAt p = .error e) : e ≠ .ok := by
  rcases blockAtView_cases s.payloadByte s.rxPavail.toNat p with ⟨-, h⟩ | ⟨-, -, h⟩ | ⟨-, -, -, h⟩ | ⟨-, -, h⟩
  · exact Except.error.inj (h.symm.trans he) ▸ nofun
  · exact Except.error.inj (h.symm.trans he) ▸ nofun
  · exact Except.error.inj (h.symm.trans he) ▸ nofun
  · nomatch h.symm.trans he

/-! ### One turn of the host -/

section

variable {s t : State} (ht : exec .itnext s = .next t) (n : Nat)

include ht

/-- The host stops after an ITNEXT with RES = 0 or an error (43_iterator.md R174). -/
theorem hostWalk_of_end (hend : t.res = 0 ∨ t.err ≠ .ok) : hostWalk (n + 1) s = some ([], t) := by
  simp only [hostWalk, ht, if_pos hend]

/-- The host takes the block of an ITNEXT that went on, and issues the next one (43_iterator.md R174). -/
theorem hostWalk_of_block (hres : t.res = 1) (herr : t.err = .ok) :
    hostWalk (n + 1) s = (hostWalk n t).map fun r => (t.blk :: r.1, r.2) := by
  simp [hostWalk, ht, hres, herr]

end

/-! ### A walk between two turns -/

/-- A walk ITNEXT can go on with: what R172 derives of its registers, and the payload view in the valid bytes (10_state.md
R31; 20_memory.md R66). -/
structure Walking (s : State) : Prop where
  started : s.itState = .ready ∨ s.itState = .block
  view : 26 + s.rxPavail.toNat ≤ s.rxLen.toNat
  sum_le : s.itCur.toNat + s.itRem.toNat ≤ 65535
  count_le : 6 * s.itNblk.toNat ≤ s.itCur.toNat

/-- The state ITNEXT answers after yielding a block. -/
def State.afterBlock (s : State) (r : BlockRegs) : State := ((s.yieldBlock r).setRes 1).setErr .ok

/-- The state `u` in which the host stops, after a walk from `s` that yields the blocks `w.1` and ends with `w.2`
(43_iterator.md R174). -/
structure WalkEnds (s : State) (w : List BlockRegs × ErrCode) (u : State) : Prop where
  err_eq : u.err = w.2
  state_eq : u.itState = if w.2 = .ok then .done else .error
  count_eq : u.itNblk.toNat = s.itNblk.toNat + w.1.length
  cursor_eq : u.itCur.toNat = s.itCur.toNat + (w.1.map fun r => r.cons.toNat).sum

section

variable {s : State}

/-- ITSTART of a decoded packet sets up such a walk (43_iterator.md R171). -/
theorem walking_startWalk (hview : 26 + s.rxPavail.toNat ≤ s.rxLen.toNat) :
    Walking ((s.startWalk.setRes 0).setErr .ok) where
  started := .inl rfl
  view := hview
  sum_le := (Nat.zero_add _).trans_le (Nat.le_of_lt_succ s.rxPlen.isLt)
  count_le := Nat.le_refl 0

variable (hw : Walking s) {r : BlockRegs} (hfit : r.cons.toNat ≤ s.itRem.toNat)

include hw hfit

/-- IT_CUR stands behind the yielded block (43_iterator.md R172). -/
theorem Walking.afterBlock_itCur : (s.afterBlock r).itCur.toNat = s.itCur.toNat + r.cons.toNat :=
  yieldBlock_itCur_toNat hw.sum_le hfit

variable (hge : 6 ≤ r.cons.toNat)

include hge

/-- A block of at least six bytes is yielded: IT_NBLK has room for it (43_iterator.md R172). -/
theorem Walking.afterBlock_itNblk : (s.afterBlock r).itNblk.toNat = s.itNblk.toNat + 1 := by
  have hsum := hw.sum_le
  have hcount := hw.count_le
  exact yieldBlock_itNblk_toNat r (by omega)

/-- A yielded block leaves a walk to go on with (43_iterator.md R172). -/
theorem Walking.afterBlock : Walking (s.afterBlock r) := by
  have hsum := hw.sum_le
  have hcount := hw.count_le
  have hcur := hw.afterBlock_itCur hfit
  have hrem : (s.afterBlock r).itRem.toNat = s.itRem.toNat - r.cons.toNat := yieldBlock_itRem_toNat s r
  have hnblk := hw.afterBlock_itNblk hfit hge
  exact ⟨.inr rfl, hw.view, by omega, by omega⟩

/-- A walk's end seen from before its first block. -/
theorem WalkEnds.of_afterBlock {w : List BlockRegs × ErrCode} {u : State} (hu : WalkEnds (s.afterBlock r) w u) :
    WalkEnds s (r :: w.1, w.2) u where
  err_eq := hu.err_eq
  state_eq := hu.state_eq
  count_eq := by
    rw [hu.count_eq, hw.afterBlock_itNblk hfit hge, List.length_cons]
    omega
  cursor_eq := by
    rw [hu.cursor_eq, hw.afterBlock_itCur hfit, List.map_cons, List.sum_cons, Nat.add_assoc]

end

/-! ### The induction over the walk -/

/-- From a walk between two turns, enough ITNEXTs give the host the blocks of the walk, and its end: a turn lowers the
remaining length by at least six, so both the ITNEXTs and the walk's turns last. -/
theorem hostWalk_eq_walkFrom (n : Nat) {s : State} {fuel : Nat} (hw : Walking s) (hn : s.itRem.toNat < 6 * n)
    (hfuel : s.itRem.toNat < 6 * fuel) :
    ∃ u, hostWalk n s = some ((walkFrom s.payloadByte s.rxPavail.toNat fuel s.itCur.toNat s.itRem.toNat).1, u) ∧
      WalkEnds s (walkFrom s.payloadByte s.rxPavail.toNat fuel s.itCur.toNat s.itRem.toNat) u := by
  induction n generalizing s fuel with
  | zero => omega
  | succ n ih =>
    by_cases hmore : 6 < s.itRem.toNat
    · obtain ⟨fuel, rfl⟩ : ∃ f, fuel = f + 1 := Nat.exists_eq_add_one.mpr (by omega)
      cases hblk : s.blockAt s.itCur.toNat with
      | error e =>
        have he := blockAt_error_ne_ok hblk
        rw [walkFrom_of_error hmore hblk]
        exact ⟨_, hostWalk_of_end (execItnext_of_error hw.started hmore hw.view hblk) n (.inr he), rfl,
          (if_neg he).symm, rfl, rfl⟩
      | ok r =>
        by_cases hfit : r.cons.toNat ≤ s.itRem.toNat
        · have hge := blockAt_cons_ge hblk
          have hcur := hw.afterBlock_itCur hfit
          have hrem : (s.afterBlock r).itRem.toNat = s.itRem.toNat - r.cons.toNat := yieldBlock_itRem_toNat s r
          obtain ⟨u, hu, hends⟩ := ih (fuel := fuel) (hw.afterBlock hfit hge) (by omega) (by omega)
          rw [hcur, hrem] at hu hends
          have hhost := hostWalk_of_block (execItnext_of_block hw.started hmore hw.view hblk hfit) n rfl rfl
          rw [walkFrom_of_block hmore hblk hfit]
          exact ⟨u, hhost.trans (congrArg _ hu), hends.of_afterBlock hw hfit hge⟩
        · have hover := Nat.lt_of_not_le hfit
          rw [walkFrom_of_overrun hmore hblk hover]
          exact ⟨_, hostWalk_of_end (execItnext_of_overrun hw.started hmore hw.view hblk hover) n (.inr nofun), rfl,
            rfl, rfl, rfl⟩
    · have hend := Nat.le_of_not_lt hmore
      obtain ⟨hidle, herror, -⟩ := itState_of_started hw.started
      rw [walkFrom_of_end fuel hend]
      exact ⟨_, hostWalk_of_end (execItnext_of_end hidle herror (.inr hend)) n (.inl rfl), rfl, rfl, rfl, rfl⟩

/-- Settles O28: ITSTART sets the walk up at its first block, and RX_PLEN bytes last for at most RX_PLEN / 6 blocks. -/
theorem iteratorAgreesWithWalk : Obligations.IteratorAgreesWithWalk := by
  intro s hs hview
  have hn : s.rxPlen.toNat < 6 * (s.rxPlen.toNat / 6 + 1) := by omega
  have hfuel : s.rxPlen.toNat < 6 * (s.rxPlen.toNat + 1) := by omega
  obtain ⟨u, hu, hends⟩ := hostWalk_eq_walkFrom _ (walking_startWalk hview) hn hfuel
  exact ⟨_, u, execItstart_of_pktOk hs, hu, hends.err_eq, hends.state_eq, hends.count_eq.trans (Nat.zero_add _),
    hends.cursor_eq.trans (Nat.zero_add _)⟩

end Sys2Proof.Machine
end

section
/-! PROOFS. The walk over a payload of well-formed response blocks (43_iterator.md R175): the parser recovers each block
at its place in the payload, and by induction on the blocks the walk yields them all, but for a last one without value
bytes. -/

namespace Sys2Proof.Machine

open Sys2Proof

/-! ### The response layout of a list of blocks -/

/-- Blocks stand one after the other on the wire (43_iterator.md R175). -/
theorem layout_cons (b : WireBlock) (rest : List WireBlock) : layout (b :: rest) = b.bytes ++ layout rest :=
  List.flatMap_cons

/-- A block's wire bytes are its header, status, value and pad byte (30_encoding.md R92). -/
theorem WireBlock.bytes_length (b : WireBlock) :
    b.bytes.length = 6 + b.fields.value.length + b.fields.value.length % 2 := by
  rw [WireBlock.bytes, blockResp_length, consumedSpan]
  omega

/-- The walk's test passes at a block, more than six bytes being left, unless it is the last one and has no value bytes
(90_conflicts.md C2). -/
theorem six_lt_layout_iff (b : WireBlock) (rest : List WireBlock) :
    6 < (layout (b :: rest)).length ↔ ¬(rest = [] ∧ b.fields.value = []) := by
  rw [layout_cons, List.length_append, b.bytes_length, ← List.length_eq_zero_iff (l := b.fields.value)]
  cases rest with
  | nil =>
    simp only [layout, List.flatMap_nil, List.length_nil, true_and]
    omega
  | cons c rest =>
    rw [layout_cons, List.length_append, c.bytes_length]
    simp only [reduceCtorEq, false_and, not_false_eq_true, iff_true]
    omega

/-- The blocks the walk yields: all but a last one without value bytes (43_iterator.md R175). -/
def yieldedBlocks (blocks : List WireBlock) : List WireBlock :=
  if ∃ b ∈ blocks.getLast?, b.fields.value = [] then blocks.dropLast else blocks

/-- `yieldedBlocks` block by block. -/
theorem yieldedBlocks_cons (b : WireBlock) (rest : List WireBlock) :
    yieldedBlocks (b :: rest) = if rest = [] ∧ b.fields.value = [] then [] else b :: yieldedBlocks rest := by
  cases rest with
  | nil => simp [yieldedBlocks]
  | cons c rest =>
    simp only [yieldedBlocks, List.getLast?_cons_cons, List.dropLast_cons_cons, reduceCtorEq, false_and, if_false]
    split <;> rfl

/-- The bytes of the blocks that are not yielded: none, or the six of a bare last block (43_iterator.md R175). -/
theorem layout_yieldedBlocks_length (blocks : List WireBlock) :
    (layout (yieldedBlocks blocks)).length + (if yieldedBlocks blocks = blocks then 0 else 6) =
      (layout blocks).length := by
  induction blocks with
  | nil => rfl
  | cons b rest ih =>
    rw [yieldedBlocks_cons]
    by_cases hbare : rest = [] ∧ b.fields.value = []
    · obtain ⟨rfl, hvalue⟩ := hbare
      simp [layout, b.bytes_length, hvalue]
    · rw [if_neg hbare, layout_cons, layout_cons, List.length_append, List.length_append, ← ih]
      simp only [List.cons.injEq, true_and]
      omega

/-! ### A block at its place in the payload -/

/-- The payload holds the bytes from offset `p` on. -/
def State.PayloadHas (s : State) (p : Nat) (bytes : List Byte) : Prop :=
  ∀ i < bytes.length, s.payloadByte (p + i) = byteView bytes i

/-- Bytes in sequence stand one after the other in the payload. -/
theorem State.PayloadHas.of_append {s : State} {p : Nat} {A B : List Byte} (h : s.PayloadHas p (A ++ B)) :
    s.PayloadHas p A ∧ s.PayloadHas (p + A.length) B := by
  constructor <;> intro i hi
  · rw [h i (by rw [List.length_append]; omega), byteView_append_left B hi]
  · rw [Nat.add_assoc, h (A.length + i) (by rw [List.length_append]; omega), byteView_append_right]

/-- A halfword of the payload is the one of the bytes it holds. -/
theorem State.PayloadHas.rd16_eq {s : State} {p i : Nat} {bytes : List Byte} (h : s.PayloadHas p bytes)
    (hi : i + 1 < bytes.length) : rd16 s.payloadByte (p + i) = rd16 (byteView bytes) i := by
  rw [rd16, rd16, h i (by omega), Nat.add_assoc, h (i + 1) hi]

section

variable {s : State} {p : Nat} {b : WireBlock} (h : s.PayloadHas p b.bytes)

include h

/-- The length field of a block in the payload counts its status and value: 16 bits hold it within a declared length
(41_block_codec.md R134). -/
theorem rd16_payload_len_toNat (hlen : b.bytes.length ≤ 65535) :
    (rd16 s.payloadByte (p + 2)).toNat = b.fields.value.length + 2 := by
  have hb := b.bytes_length
  rw [h.rd16_eq (by omega)]
  exact rd16_blockResp_len_toNat _ _ _ _ (by omega)

/-- The parser takes a block that lies in the payload's valid bytes (41_block_codec.md R132, R134). -/
theorem blockAt_of_payload (hlen : b.bytes.length ≤ 65535) (hfit : p + b.bytes.length ≤ s.rxPavail.toNat) :
    s.blockAt p = .ok (blockRecord s.payloadByte p) := by
  have hb := b.bytes_length
  have hword := rd16_payload_len_toNat h hlen
  exact blockAtView_of_fits (by omega) (by omega)

/-- Its consumed span is the length of its wire bytes (41_block_codec.md R131). -/
theorem blockRecord_cons_of_payload (hlen : b.bytes.length ≤ 65535) :
    (blockRecord s.payloadByte p).cons.toNat = b.bytes.length := by
  rw [blockRecord_cons_toNat, rd16_payload_len_toNat h hlen, b.bytes_length, consumedSpan]
  omega

/-- The record's fields, its value read from RXBUF, are the block's own (41_block_codec.md R134). -/
theorem fieldsOf_blockRecord (hlen : b.bytes.length ≤ 65535) (hp : p ≤ 65535) :
    s.fieldsOf (blockRecord s.payloadByte p) = b.fields := by
  obtain ⟨⟨o, u, status, V⟩, pad⟩ := b
  have hb : (WireBlock.bytes ⟨⟨o, u, status, V⟩, pad⟩).length = 6 + V.length + V.length % 2 := WireBlock.bytes_length _
  have hopt : s.payloadByte p = o := h 0 (by omega)
  have hsub : s.payloadByte (p + 1) = u := h 1 (by omega)
  have hstatus : rd16 s.payloadByte (p + 4) = status :=
    (h.rd16_eq (by omega)).trans (rd16_blockResp_status o u status pad)
  have hvlen : (blockRecord s.payloadByte p).vlen.toNat = V.length := by
    rw [blockRecord_vlen_toNat, rd16_payload_len_toNat h hlen, Nat.add_sub_cancel]
  have hvalue : s.memRead .rx (26 + p + 6) V.length = V := by
    refine Eq.trans (List.map_congr_left fun i hi => ?_) (map_byteView_range V)
    have hiV := List.mem_range.mp hi
    calc s.rxByte (26 + p + 6 + i) = s.payloadByte (p + (6 + i)) := by
          rw [State.payloadByte, Config.rxPayloadBase, ← Nat.add_assoc, ← Nat.add_assoc]
      _ = byteView (blockResp o u status V pad) (6 + i) := h (6 + i) (by omega)
      _ = byteView V i := byteView_blockResp_value o u status pad hiV
  obtain ⟨-, hvoff⟩ := blockRecord_offsets_toNat s.payloadByte (p := p) (by omega)
  rw [State.fieldsOf, hvlen, hvoff, hvalue]
  simp only [blockRecord, hopt, hsub, hstatus]

end

/-! ### The induction over the blocks -/

/-- From a cursor at which the payload holds a list of blocks to the declared length's end, the walk yields them and ends
OK. -/
theorem walkFrom_layout {s : State} (blocks : List WireBlock) {fuel cur rem : Nat}
    (h : s.PayloadHas cur (layout blocks)) (hrem : (layout blocks).length = rem) (hend : cur + rem ≤ 65535)
    (hvalid : cur + rem ≤ s.rxPavail.toNat) (hfuel : rem < 6 * fuel) :
    ∃ records, walkFrom s.payloadByte s.rxPavail.toNat fuel cur rem = (records, .ok) ∧
      records.map s.fieldsOf = (yieldedBlocks blocks).map WireBlock.fields ∧
      (records.map fun r => r.cons.toNat).sum = (layout (yieldedBlocks blocks)).length := by
  induction blocks generalizing fuel cur rem with
  | nil =>
    subst hrem
    exact ⟨[], walkFrom_of_end fuel (Nat.zero_le 6), rfl, rfl⟩
  | cons b rest ih =>
    have hmore := hrem ▸ six_lt_layout_iff b rest
    rw [yieldedBlocks_cons]
    by_cases hbare : rest = [] ∧ b.fields.value = []
    · have hle : rem ≤ 6 := Nat.le_of_not_lt fun hlt => hmore.mp hlt hbare
      rw [if_pos hbare]
      exact ⟨[], walkFrom_of_end fuel hle, rfl, rfl⟩
    · rw [layout_cons] at h hrem
      rw [List.length_append] at hrem
      obtain ⟨hblock, hrest⟩ := h.of_append
      obtain ⟨fuel, rfl⟩ : ∃ f, fuel = f + 1 := Nat.exists_eq_add_one.mpr (by omega)
      have hb := b.bytes_length
      have hcons := blockRecord_cons_of_payload hblock (by omega)
      obtain ⟨records, hwalk, hfields, hspan⟩ :=
        ih (fuel := fuel) (rem := rem - b.bytes.length) hrest (by omega) (by omega) (by omega) (by omega)
      refine ⟨blockRecord s.payloadByte cur :: records, ?_, ?_, ?_⟩
      · rw [walkFrom_of_block (hmore.mpr hbare) (blockAt_of_payload hblock (by omega) (by omega)) (by omega), hcons,
          hwalk]
      · rw [if_neg hbare, List.map_cons, List.map_cons, hfields, fieldsOf_blockRecord hblock (by omega) (by omega)]
      · rw [if_neg hbare, List.map_cons, List.sum_cons, hcons, hspan, layout_cons, List.length_append]

/-- Settles O29: the walk starts at the payload's first byte, with the declared length. -/
theorem walkTraversesWellFormedBlocks : Obligations.WalkTraversesWellFormedBlocks := by
  intro s blocks hlen hvalid hbytes yielded
  have hplen := s.rxPlen.isLt
  have hhas : s.PayloadHas 0 (layout blocks) := fun i hi => by rw [Nat.zero_add, hbytes i (hlen ▸ hi)]
  obtain ⟨records, hwalk, hfields, hspan⟩ :=
    walkFrom_layout (fuel := s.rxPlen.toNat + 1) blocks hhas hlen (by omega) (by omega) (by omega)
  have hw : s.walk = (records, .ok) := hwalk
  rw [hw]
  exact ⟨rfl, hfields, hspan ▸ hlen ▸ layout_yieldedBlocks_length blocks⟩

end Sys2Proof.Machine
end

section
/-! PROOFS. CLASSIFY under the guards of its paths (43_iterator.md R173), for any parameters and on the machine. -/

namespace Sys2Proof.Machine

open Sys2Proof

section

variable {P : Params} {s : State}

/-- CLASSIFY without a decoded packet (43_iterator.md R173). -/
theorem classify_of_not_decoded (hs : s.rxStage ≠ .pktOk) : classify P s = .next (s.setErr .sequence) :=
  if_pos hs

variable (hs : s.rxStage = .pktOk)

include hs

/-- CLASSIFY of a packet that declares no first block (43_iterator.md R173). -/
theorem classify_of_no_block (hplen : s.rxPlen.toNat ≤ 6) :
    classify P s = .next (s.classifyAs .deviceData 0 0 1) :=
  (if_neg (not_not.mpr hs)).trans (if_pos hplen)

variable (hplen : 6 < s.rxPlen.toNat) (hview : 26 + s.rxPavail.toNat ≤ s.rxLen.toNat)

include hplen hview

/-- CLASSIFY where no first block parses (43_iterator.md R173). -/
theorem classify_of_error {e : ErrCode} (he : s.blockAt 0 = .error e) :
    classify P s = .next (s.classifyError e) := by
  simp [classify, Config.walkMin, hs, Nat.not_le.mpr hplen, payloadAccess_of_le hview, he]

variable {r : BlockRegs} (hr : s.blockAt 0 = .ok r)

include hr

/-- CLASSIFY of a first block that overruns the declared length (43_iterator.md R173). -/
theorem classify_of_overrun (hover : s.rxPlen.toNat < r.cons.toNat) :
    classify P s = .next (s.classifyError .blkOverrun) := by
  simp [classify, Config.walkMin, hs, Nat.not_le.mpr hplen, payloadAccess_of_le hview, hr, hover]

variable (hfit : r.cons.toNat ≤ s.rxPlen.toNat)

include hfit

/-- CLASSIFY of a first block within the declared length: its option picks device data or an acknowledgement, and the
latter needs its status byte among the payload's (43_iterator.md R173). -/
theorem classify_of_block :
    classify P s = .next (if r.opt = Config.controlOption then
      if s.rxPavail.toNat ≤ P.ackStatusOffset then s.classifyError .ackOob
      else s.classifyAs .ack (s.payloadByte P.ackStatusOffset) (ackKnownBit (s.payloadByte P.ackStatusOffset)) 2
    else s.classifyAs .deviceData 0 0 1) := by
  simp [classify, Config.walkMin, hs, Nat.not_le.mpr hplen, payloadAccess_of_le hview, hr, Nat.not_lt.mpr hfit,
    apply_ite Host.Outcome.next]

/-- CLASSIFY of a first block that is not a control block (43_iterator.md R173). -/
theorem classify_of_deviceData (hopt : r.opt ≠ Config.controlOption) :
    classify P s = .next (s.classifyAs .deviceData 0 0 1) := by
  rw [classify_of_block hs hplen hview hr hfit, if_neg hopt]

/-- CLASSIFY of an acknowledgement without its status byte (43_iterator.md R173). -/
theorem classify_of_ackOob (hopt : r.opt = Config.controlOption) (hack : s.rxPavail.toNat ≤ P.ackStatusOffset) :
    classify P s = .next (s.classifyError .ackOob) := by
  rw [classify_of_block hs hplen hview hr hfit, if_pos hopt, if_pos hack]

/-- CLASSIFY of an acknowledgement with its status byte (43_iterator.md R173). -/
theorem classify_of_ack (hopt : r.opt = Config.controlOption) (hack : P.ackStatusOffset < s.rxPavail.toNat) :
    classify P s = .next (s.classifyAs .ack (s.payloadByte P.ackStatusOffset)
      (ackKnownBit (s.payloadByte P.ackStatusOffset)) 2) := by
  rw [classify_of_block hs hplen hview hr hfit, if_pos hopt, if_neg (Nat.not_le.mpr hack)]

end

/-- A control block by its option's number (30_encoding.md R93). -/
theorem controlOption_iff (opt : Byte) : opt = Config.controlOption ↔ opt.toNat = 5 :=
  BitVec.toNat_inj.symm

/-- Settles O26: the stage, the declared length, the parser's answer and the option pick the path. -/
theorem classifyUnderAnyParameters : Obligations.ClassifyUnderAnyParameters := by
  refine ⟨rfl, rfl, fun _ => rfl, fun P s => ⟨classify_of_not_decoded, classify_of_no_block, fun hs hplen hview => ?_⟩⟩
  refine ⟨fun e => classify_of_error hs hplen hview, fun r hr => ?_⟩
  have hcontrol := controlOption_iff r.opt
  refine ⟨classify_of_overrun hs hplen hview hr, fun hfit hopt => ?_, fun hfit hopt => ?_, fun hfit hopt hack => ?_⟩
  · exact classify_of_deviceData hs hplen hview hr hfit (mt hcontrol.mp hopt)
  · exact classify_of_ackOob hs hplen hview hr hfit (hcontrol.mpr hopt)
  · exact ⟨_, classify_of_ack hs hplen hview hr hfit (hcontrol.mpr hopt) hack, rfl, rfl, rfl, rfl, rfl, rfl⟩

/-- Settles O27: the machine's CLASSIFY takes the status byte at payload offset 6. -/
theorem classifyCompletes : Obligations.ClassifyCompletes := by
  refine fun s hs => ⟨fun hplen => ?_, fun hplen hview r hr hfit => ⟨fun hopt hack => ?_, fun hopt => ?_⟩⟩
  · exact ⟨_, classify_of_no_block hs hplen, rfl, rfl, rfl⟩
  · exact ⟨_, classify_of_ack (P := Config.params) hs hplen hview hr hfit hopt hack, rfl, rfl, rfl, rfl, rfl⟩
  · exact ⟨_, classify_of_deviceData hs hplen hview hr hfit hopt, rfl, rfl, rfl, rfl, rfl, rfl⟩

end Sys2Proof.Machine
end

section
/-! PROOFS. No state before a frame load reaches the decode of the frame (43_iterator.md R177; 60_exceptions.md R206):
ETHDEC and PKTDEC keep two states alike that hold the same frame. -/

namespace Sys2Proof.Machine

open Sys2Proof

/-- The valid bytes of RXBUF are the same in two states (10_state.md R30). -/
structure SameFrame (s s' : State) : Prop where
  rxLen_eq : s.rxLen = s'.rxLen
  rxByte_eq : ∀ a < s.rxLen.toNat, s.rxByte a = s'.rxByte a

/-- The decode of the same frame has the same outcome in two states: ERR, and what says how far it has come (10_state.md
R28, R29, R31, R33). -/
structure SameDecode (s s' : State) : Prop extends SameFrame s s' where
  err_eq : s.err = s'.err
  rxStage_eq : s.rxStage = s'.rxStage
  rxValid_eq : s.rxValid = s'.rxValid
  itState_eq : s.itState = s'.itState
  kind_eq : s.kind = s'.kind

/-! ### The load -/

/-- A load that answers is one of a frame that fits RXBUF (60_exceptions.md R205). -/
theorem length_le_of_hostLoad {P : Params} {F : List Byte} {s u : State} (h : hostLoad P F s = .next u) :
    F.length ≤ P.rxCap := by
  refine Nat.le_of_not_lt fun hlong => ?_
  nomatch (if_pos hlong).symm.trans h

/-- A loaded frame is all that RXBUF's valid bytes hold (60_exceptions.md R206). -/
theorem hostLoad_frame {P : Params} {F : List Byte} {s u : State} (hP : P.ok) (h : hostLoad P F s = .next u) :
    u.rxLen.toNat = F.length ∧ ∀ a < F.length, u.rxByte a = byteView F a := by
  obtain ⟨t, ht, hlen, hbytes⟩ := hostLoad_of_le hP (length_le_of_hostLoad h) s
  obtain rfl := Host.Outcome.next.inj (ht.symm.trans h)
  exact ⟨hlen, hbytes⟩

/-- Two states after the same load hold the same frame. -/
theorem sameFrame_of_hostLoad {P : Params} {F : List Byte} {s s' u u' : State} (hP : P.ok)
    (h : hostLoad P F s = .next u) (h' : hostLoad P F s' = .next u') : SameFrame u u' := by
  obtain ⟨hlen, hbytes⟩ := hostLoad_frame hP h
  obtain ⟨hlen', hbytes'⟩ := hostLoad_frame hP h'
  refine ⟨BitVec.eq_of_toNat_eq (hlen.trans hlen'.symm), fun a ha => ?_⟩
  rw [hbytes a (hlen ▸ ha), hbytes' a (hlen ▸ ha)]

/-! ### The fields read -/

section

variable {s s' : State} (h : SameFrame s s')

include h

theorem SameFrame.rd16_eq {i : Nat} (hi : i + 2 ≤ s.rxLen.toNat) : rd16 s.rxByte i = rd16 s'.rxByte i :=
  rd16_congr fun j _ hj => h.rxByte_eq j (by omega)

theorem SameFrame.rd32_eq {i : Nat} (hi : i + 4 ≤ s.rxLen.toNat) : rd32 s.rxByte i = rd32 s'.rxByte i :=
  rd32_congr fun j _ hj => h.rxByte_eq j (by omega)

theorem SameFrame.rdmac_eq {i : Nat} (hi : i + 6 ≤ s.rxLen.toNat) : rdmac s.rxByte i = rdmac s'.rxByte i :=
  rdmac_congr fun j _ hj => h.rxByte_eq j (by omega)

/-! ### ETHDEC -/

/-- ETHDEC gives the same outcome, and where the frame holds an envelope the same envelope registers (42_frame_codec.md
R151). -/
theorem execEthdec_sameDecode : ∃ t t', execEthdec s = .next t ∧ execEthdec s' = .next t' ∧ SameDecode t t' ∧
    (14 ≤ s.rxLen.toNat → t.rxDst = t'.rxDst ∧ t.rxSrc = t'.rxSrc ∧ t.rxEtype = t'.rxEtype) := by
  by_cases hlen : 14 ≤ s.rxLen.toNat
  · have hlen' : 14 ≤ s'.rxLen.toNat := h.rxLen_eq ▸ hlen
    have htype := h.rd16_eq (i := 12) hlen
    have hdecode := execEthdec_of_le hlen'
    rw [← htype] at hdecode
    exact ⟨_, _, execEthdec_of_le hlen, hdecode, ⟨⟨h.rxLen_eq, h.rxByte_eq⟩, rfl, rfl, rfl, rfl, rfl⟩,
      fun _ => ⟨h.rdmac_eq (by omega), h.rdmac_eq (by omega), rfl⟩⟩
  · have hshort := Nat.lt_of_not_le hlen
    exact ⟨_, _, execEthdec_of_short hshort, execEthdec_of_short (h.rxLen_eq ▸ hshort),
      ⟨⟨h.rxLen_eq, h.rxByte_eq⟩, rfl, rfl, rfl, rfl, rfl⟩, fun hle => absurd hle hlen⟩

end

/-! ### PKTDEC -/

/-- The packet header registers are the same in two states (10_state.md R29). -/
structure SameHeader (s s' : State) : Prop where
  rxFrameId_eq : s.rxFrameId = s'.rxFrameId
  rxServiceId_eq : s.rxServiceId = s'.rxServiceId
  rxServiceType_eq : s.rxServiceType = s'.rxServiceType
  rxXid_eq : s.rxXid = s'.rxXid
  rxDelay_eq : s.rxDelay = s'.rxDelay
  rxPlen_eq : s.rxPlen = s'.rxPlen
  rxPavail_eq : s.rxPavail = s'.rxPavail

/-- The header registers written from the same frame (42_frame_codec.md R152). -/
theorem SameFrame.setHeader {s s' : State} (h : SameFrame s s') (hlen : 26 ≤ s.rxLen.toNat) :
    SameHeader s.setHeader s'.setHeader where
  rxFrameId_eq := h.rd16_eq (by omega)
  rxServiceId_eq := h.rxByte_eq 16 (by omega)
  rxServiceType_eq := h.rxByte_eq 17 (by omega)
  rxXid_eq := h.rd32_eq (by omega)
  rxDelay_eq := h.rd16_eq (by omega)
  rxPlen_eq := h.rd16_eq (by omega)
  rxPavail_eq := congrArg (fun n : U32 => BitVec.ofNat 32 (n.toNat - Config.rxPayloadBase)) h.rxLen_eq

/-- PKTDEC gives the same outcome, and where it succeeds the same header registers (42_frame_codec.md R152). -/
theorem execPktdec_sameDecode {s s' : State} (h : SameDecode s s') :
    ∃ t t', execPktdec s = .next t ∧ execPktdec s' = .next t' ∧ SameDecode t t' ∧ (t.err = .ok → SameHeader t t') := by
  have hframe := h.toSameFrame
  by_cases hstage : s.rxStage = .none
  · exact ⟨_, _, execPktdec_of_not_decoded hstage, execPktdec_of_not_decoded (h.rxStage_eq ▸ hstage),
      { h with err_eq := rfl }, nofun⟩
  · have hstage' : s'.rxStage ≠ .none := h.rxStage_eq ▸ hstage
    by_cases hlen : 26 ≤ s.rxLen.toNat
    · have hvalid : validBit (s.rxByte 17) = validBit (s'.rxByte 17) := congrArg validBit (h.rxByte_eq 17 (by omega))
      have hheader := hframe.setHeader hlen
      exact ⟨_, _, execPktdec_of_le hstage hlen, execPktdec_of_le hstage' (h.rxLen_eq ▸ hlen),
        ⟨⟨h.rxLen_eq, h.rxByte_eq⟩, rfl, rfl, hvalid, rfl, rfl⟩, fun _ => { hheader with }⟩
    · have hshort := Nat.lt_of_not_le hlen
      exact ⟨_, _, execPktdec_of_short hstage hshort, execPktdec_of_short hstage' (h.rxLen_eq ▸ hshort),
        ⟨⟨h.rxLen_eq, h.rxByte_eq⟩, rfl, rfl, rfl, rfl, rfl⟩, nofun⟩

/-- Settles O44: the load leaves the same frame in both states, and each command keeps them alike. -/
theorem nextFrameDecodesIndependently : Obligations.NextFrameDecodesIndependently := by
  intro P F s s' u u' hP hu hu'
  obtain ⟨hlen, -⟩ := hostLoad_frame hP hu
  obtain ⟨v, v', hv, hv', heth, henv⟩ := execEthdec_sameDecode (sameFrame_of_hostLoad hP hu hu')
  obtain ⟨w, w', hw, hw', hpkt, hheader⟩ := execPktdec_sameDecode heth
  refine ⟨v, v', w, w', hv, hv', heth.err_eq, heth.rxStage_eq, heth.rxValid_eq, heth.itState_eq, heth.kind_eq, ?_, hw,
    hw', hpkt.err_eq, hpkt.rxStage_eq, hpkt.rxValid_eq, hpkt.itState_eq, hpkt.kind_eq, fun hok => ?_⟩
  · rwa [hlen] at henv
  · obtain ⟨hfid, hsid, hstype, hxid, hdelay, hplen, hpavail⟩ := hheader hok
    exact ⟨hfid, hsid, hstype, hxid, hdelay, hplen, hpavail⟩

end Sys2Proof.Machine
end

section
/-! PROOFS. The host's operations in and out of their ranges (60_exceptions.md R205, R206), the illegal opcodes (R194),
and the step (R202). -/

namespace Sys2Proof.Machine

open Sys2Proof

/-- Settles O4: the step looks at the head of the host's list. -/
theorem stepPerformsNextHostOperation : Obligations.StepPerformsNextHostOperation :=
  fun _ => ⟨step_of_no_operation, fun _ _ hops => step_of_operation hops⟩

/-! ### Illegal opcodes -/

/-- The four ranges of byte values outside the opcode table (30_encoding.md R83). -/
abbrev IllegalOpcode (c : Nat) : Prop :=
  (0x08 ≤ c ∧ c ≤ 0x0F) ∨ (0x11 ≤ c ∧ c ≤ 0x1F) ∨ (0x23 ≤ c ∧ c ≤ 0x2F) ∨ (0x34 ≤ c ∧ c ≤ 0xFF)

/-- No row of the opcode table lies in those ranges (30_encoding.md R82, R83). -/
theorem not_illegalOpcode_encode (i : Instr) : ¬ IllegalOpcode (encode i).toNat := by
  cases i <;> decide

/-- A byte that decodes is the opcode of a row, so the decoder rejects those ranges (30_encoding.md R83). -/
theorem decode_of_illegalOpcode {c : Byte} (hc : IllegalOpcode c.toNat) : ∃ e, decode c = .error e := by
  cases hdecode : decode c with
  | error e => exact ⟨e, rfl⟩
  | ok i =>
    rw [← encode_of_decode hdecode] at hc
    exact absurd hc (not_illegalOpcode_encode i)

/-- Settles O5: the host's write to CMD issues the byte, which the decoder rejects. -/
theorem illegalOpcodeSetsErrOnly : Obligations.IllegalOpcodeSetsErrOnly := by
  intro s c hc
  have hbyte : (BitVec.ofNat 8 c).toNat = c := Nat.mod_eq_of_lt (by omega)
  obtain ⟨e, he⟩ := decode_of_illegalOpcode (hbyte.symm ▸ hc)
  have hwrite := (hostWriteReg_cmd (BitVec.ofNat 8 c) s).trans (issue_illegal he s)
  rw [hbyte] at hwrite
  exact ⟨hwrite, rfl⟩

/-! ### Each operation in its range, and out of it -/

/-- A write of a value too wide for the register it names is refused (60_exceptions.md R205; log 10). -/
theorem hostWriteReg_of_wide {n : Byte} {r : Reg} {v : Nat} (hn : Reg.ofNumber n = some r) (hv : 2 ^ r.width ≤ v)
    (s : State) : hostWriteReg n v s = .refused (.valueTooWide r) := by
  simp [hostWriteReg, hn, Nat.not_lt.mpr hv]

/-- A write to a named register is well formed where the value has the register's width (60_exceptions.md R205;
log 10). -/
theorem wellFormedWrite_iff {n : Byte} {r : Reg} (hn : Reg.ofNumber n = some r) (v : Nat) :
    wellFormedWrite n v = true ↔ v < 2 ^ r.width := by
  simp [wellFormedWrite, hn]

/-- A well-formed register write completes where the invariant holds: it does nothing, stores, or issues
(60_exceptions.md R205). -/
theorem hostWriteReg_answers {P : Params} {s : State} (hi : Inv P s) {n : Byte} {v : Nat}
    (hwf : wellFormedWrite n v = true) : ∃ t, hostWriteReg n v s = .next t := by
  rcases hostWriteReg_cases n v s with ⟨-, he⟩ | ⟨r, hn, ⟨hwide, -⟩ | ⟨-, ⟨-, he⟩ | ⟨-, he⟩ | ⟨-, he⟩⟩⟩
  · exact ⟨_, he⟩
  · exact absurd ((wellFormedWrite_iff hn v).mp hwf) (Nat.not_lt.mpr hwide)
  · exact ⟨_, he⟩
  · exact ⟨_, he⟩
  · exact he ▸ issue_answers hi (BitVec.ofNat 8 v)

section

variable {P : Params} (s : State)

/-- A VALBUF write within VAL_CAP stores its bytes (60_exceptions.md R205). -/
theorem hostWriteVal_of_le {a : Nat} {bytes : List Byte} (h : a + bytes.length ≤ P.valCap) :
    hostWriteVal P a bytes s = .next (s.storeVal a bytes) :=
  if_neg (Nat.not_lt.mpr h)

/-- A VALBUF write past VAL_CAP is refused (60_exceptions.md R205, 93_implementation_defined.md U12). -/
theorem hostWriteVal_of_lt {a : Nat} {bytes : List Byte} (h : P.valCap < a + bytes.length) :
    hostWriteVal P a bytes s = .refused .valWriteOutOfRange :=
  if_pos h

/-- A TXBUF read within TXLEN replies with the bytes (60_exceptions.md R205). -/
theorem hostReadTx_of_le {a n : Nat} (h : a + n ≤ s.txLen.toNat) :
    hostReadTx a n s = .next (s.setReply (.bytes (s.memRead .tx a n))) :=
  (hostReadTx_cases a n s).elim And.right fun ⟨hlt, _⟩ => absurd hlt (Nat.not_lt.mpr h)

/-- A TXBUF read past TXLEN is refused (60_exceptions.md R205, 93_implementation_defined.md U12). -/
theorem hostReadTx_of_lt {a n : Nat} (h : s.txLen.toNat < a + n) : hostReadTx a n s = .refused (.readOutOfRange .tx) :=
  (hostReadTx_cases a n s).elim (fun ⟨hle, _⟩ => absurd h (Nat.not_lt.mpr hle)) And.right

/-- A load of a frame that fits RXBUF stores it and drops every decode (60_exceptions.md R206). -/
theorem hostLoad_eq_of_le {frame : List Byte} (h : frame.length ≤ P.rxCap) :
    hostLoad P frame s = .next ((s.storeRx frame).dropDecode .none) :=
  if_neg (Nat.not_lt.mpr h)

/-- A load of a longer frame is refused (60_exceptions.md R205, 93_implementation_defined.md U12). -/
theorem hostLoad_of_lt {frame : List Byte} (h : P.rxCap < frame.length) : hostLoad P frame s = .refused .frameTooLong :=
  if_pos h

end

/-- Settles O36: one range for each host operation; the direct RXBUF read has none. -/
theorem hostOperationsInRangeComplete : Obligations.HostOperationsInRangeComplete := by
  intro s op hi hwf htx
  cases op with
  | writeReg n v => exact hostWriteReg_answers hi hwf
  | readReg n => exact ⟨_, rfl⟩
  | writeVal a bytes => exact ⟨_, hostWriteVal_of_le s (of_decide_eq_true hwf)⟩
  | readTx a n => exact ⟨_, hostReadTx_of_le s (htx a n rfl)⟩
  | readRx a n => nomatch hwf
  | load frame => exact ⟨_, hostLoad_eq_of_le s (of_decide_eq_true hwf)⟩
  | reset => exact ⟨_, rfl⟩

/-- Settles O43: past its range each operation is refused by a name of its own. -/
theorem hostOperationsOutOfRangeAreRefused : Obligations.HostOperationsOutOfRangeAreRefused :=
  ⟨fun _ _ s h => ⟨_, hostLoad_of_lt s h⟩, fun _ _ _ s h => ⟨_, hostWriteVal_of_lt s h⟩,
    fun s _ _ h => ⟨_, hostReadTx_of_lt s h⟩, fun _ _ _ => ⟨_, rfl⟩,
    fun s r _ h => ⟨_, hostWriteReg_of_wide (ofNumber_number r) h s⟩⟩

/-! ### What the operations write -/

/-- RXBUF after a load: the frame from address 0, and above it what was there (60_exceptions.md R206). -/
theorem storeRx_rxByte (s : State) (frame : List Byte) (a : Nat) :
    (s.storeRx frame).rxByte a = if a < frame.length then byteView frame a else s.rxByte a := by
  simpa using State.rxByte_of_write s (s.storeRx frame) frame 0 a rfl rfl

/-- RXLEN after a load of a frame that fits RXBUF is its length: RX_CAP is below 2^32 (60_exceptions.md R206). -/
theorem storeRx_rxLen_toNat {P : Params} (hP : P.ok) {frame : List Byte} (h : frame.length ≤ P.rxCap) (s : State) :
    (s.storeRx frame).rxLen.toNat = frame.length := by
  obtain ⟨-, hcap, -⟩ := hP
  exact Nat.mod_eq_of_lt (by omega)

/-- Settles O41: the load is `storeRx`, whose bytes and length are above, and `dropDecode`. -/
theorem frameLoadInvalidatesDecode : Obligations.FrameLoadInvalidatesDecode :=
  ⟨fun _ _ => rfl, fun _ F s hP hfit =>
    ⟨_, hostLoad_eq_of_le s hfit, storeRx_rxLen_toNat hP hfit s, storeRx_rxByte s F, rfl⟩⟩

/-- The host's write of an opcode to CMD performs the command with CMD written (10_state.md R23). -/
theorem hostStep_commandOp (i : Instr) (s : State) :
    hostStep (commandOp (encode i)) s = exec i (s.withCmd (encode i)) :=
  (hostWriteReg_cmd (encode i) s).trans (issue_encode i s)

/-- RXRD8 of a valid byte of RXBUF puts it in RES (40_int_codec.md R119). -/
theorem exec_rxrd8_of_lt {s : State} (h : s.arg.toNat < s.rxLen.toNat) :
    exec .rxrd8 s = .next ((s.setRes (zext32 (s.rxByte s.arg.toNat))).setErr .ok) :=
  congrArg Host.Outcome.next (rxRead_of_le h _)

/-- The host's read of one byte of RXBUF, operation by operation: `WR ARG, a` takes the address whole, RXRD8 finds it
among the valid bytes, and the host reads RES (40_int_codec.md R119; log 9). -/
theorem hostRun_readRxByteOps {s : State} {a : Nat} (ha : a < s.rxLen.toNat) :
    hostRun (readRxByteOps a) s = .next (((((s.setReg .arg a).withCmd (encode .rxrd8)).setRes
      (zext32 (s.rxByte a))).setErr .ok).setReply (.value (zext32 (s.rxByte a)).toNat)) := by
  have hwidth : a < 2 ^ 32 := ha.trans s.rxLen.isLt
  have harg : ((s.setReg .arg a).withCmd (encode .rxrd8)).arg.toNat = a := Nat.mod_eq_of_lt hwidth
  have hwrite : hostStep (.writeReg Reg.arg.number a) s = .next (s.setReg .arg a) :=
    hostWriteReg_readWrite (r := .arg) rfl hwidth s
  have hcommand := (hostStep_commandOp .rxrd8 (s.setReg .arg a)).trans (exec_rxrd8_of_lt (harg.symm ▸ ha))
  rw [harg] at hcommand
  rw [readRxByteOps, hostRun_cons hwrite, hostRun_cons hcommand]
  rfl

/-- Settles O42: each access answers one named update of the state. -/
theorem hostBufferAccesses : Obligations.HostBufferAccesses := by
  refine ⟨fun _ _ _ => rfl, fun P a bytes s h => ?_, fun s a n h => ?_, fun s a ha => ?_⟩
  · exact ⟨_, hostWriteVal_of_le s h, fun x => State.valByte_of_write s _ bytes a x rfl rfl, rfl⟩
  · exact ⟨_, hostReadTx_of_le s h, memRead_length s .tx a n, fun i hi => memRead_byteView s .tx a hi⟩
  · have hbyte : (zext32 (s.rxByte a)).toNat = (s.rxByte a).toNat := zext32_toNat (by decide) _
    have harg : a % 2 ^ 32 = a := Nat.mod_eq_of_lt (ha.trans s.rxLen.isLt)
    exact ⟨_, hostRun_readRxByteOps ha, congrArg Reply.value hbyte, harg, hbyte, rfl⟩

end Sys2Proof.Machine
end

section
/-! PROOFS. The registers after a reset (70_reset_and_hazards.md R220). -/

namespace Sys2Proof.Machine

open Sys2Proof

/-- Where every named register is 0, every number reads 0, named or reserved (10_state.md R22). -/
theorem State.readReg_eq_zero {s : State} (hs : ∀ r, s.getReg r = 0) (n : Byte) : s.readReg n = 0 := by
  cases hn : Reg.ofNumber n with
  | none => exact State.readReg_of_none hn s
  | some r => exact (State.readReg_of_some hn s).trans (hs r)

/-- Every named register of the reset state is 0, whatever host operations are still to come and whatever the epoch
(10_state.md R35; log 1, log 5). -/
theorem State.getReg_reset (ops : List HostOp) (k : Nat) (r : Reg) :
    ({ State.reset with hostOps := ops, epoch := k } : State).getReg r = 0 := by
  cases r <;> rfl

/-- Settles O40: the host reset leaves the reset state with the host's list and a new epoch, which no register shows. -/
theorem resetClearsEveryRegister : Obligations.ResetClearsEveryRegister := by
  refine ⟨State.readReg_eq_zero (State.getReg_reset [] 0), fun s => ?_⟩
  have hregs := State.readReg_eq_zero (State.getReg_reset s.hostOps (s.epoch + 1))
  exact ⟨_, rfl, hregs, rfl, rfl, rfl, rfl⟩

end Sys2Proof.Machine
end
